-- ==== Sys2Proof/Word.lean ====
section
/-! DEFINITION. The widths of the machine: bytes, 16-bit words, and the fields of an instruction word (spec 00_scope R7, R9; 30_encoding R102). -/
namespace Sys2Proof

/-- An 8-bit unsigned value: a V register, a timer, a memory cell (R7 `V_WIDTH`, `TIMER_WIDTH`). -/
abbrev Byte := BitVec 8

/-- A 16-bit unsigned value: an instruction word, PC, I, a stack entry (R7 `PC_WIDTH`, `I_WIDTH`, `STACK_ENTRY_WIDTH`). -/
abbrev Word := BitVec 16

/-- A 4-bit field: a register index, a sprite height, a key code (R102 `X`, `Y`, `N`; R7 `NUM_KEYS`). -/
abbrev Nibble := BitVec 4

/-- A 12-bit address field (R102 `NNN`). -/
abbrev Addr := BitVec 12

end Sys2Proof
end

