-- ==== Sys2Proof/Machine/Flags.lean ====
section
/-! DEFINITION. Every computation of the flag output VF and of the results that come with one (41_alu R170, R177–R182; 42_index_memory R211; 43_display R244). -/
namespace Sys2Proof.Machine

/-- The byte a condition puts in VF: 1 or 0. -/
def flagByte (c : Bool) : Byte := if c then 1#8 else 0#8

/-- `sum mod 256` of the exact sum (41_alu R172, R177). -/
def sumByte (x y : Byte) : Byte := BitVec.ofNat 8 (x.toNat + y.toNat)

/-- VF of an addition: the exact sum exceeds 255 (R177). -/
def carryFlag (x y : Byte) : Byte := flagByte (decide (x.toNat + y.toNat > 255))

/-- The exact difference, minuend first (R178, R179). -/
def exactDiff (minuend subtrahend : Byte) : Int := (minuend.toNat : Int) - (subtrahend.toNat : Int)

/-- `diff mod 256` (R178). -/
def diffByte (minuend subtrahend : Byte) : Byte := BitVec.ofInt 8 (exactDiff minuend subtrahend)

/-- VF of a subtraction: the exact difference is at least 0, so equality sets it (R180). -/
def noBorrowFlag (minuend subtrahend : Byte) : Byte := flagByte (decide (exactDiff minuend subtrahend ≥ 0))

/-- The value of a right shift by one (R181). -/
def shrByte (b : Byte) : Byte := b >>> 1

/-- The bit a right shift moves out: bit 0 (R181). -/
def shrOut (b : Byte) : Byte := b &&& 1#8

/-- The value of a left shift by one, mod 256 (R182). -/
def shlByte (b : Byte) : Byte := b <<< 1

/-- The bit a left shift moves out: bit 7 (R182). -/
def shlOut (b : Byte) : Byte := (b >>> 7) &&& 1#8

/-- FX1E's overflow test, on the new 16-bit I (42_index_memory R211). -/
def indexOverflow (i : Word) : Bool := decide (i.toNat > 0xFFF)

end Sys2Proof.Machine
end

