-- ==== Sys2Proof/Syntax.lean ====
section
/-! DEFINITION. The instructions: one constructor per row of spec/opcode_table.json, named as the table names it, with the row's fields as arguments (30_encoding R104, R106). -/
namespace Sys2Proof

/-- The 34 operations and the fallback. `x`, `y` are register indices, `nn` a byte, `n` a nibble, `nnn` a 12-bit
address, `w` a whole word (30_encoding R102). -/
inductive Instr where
  /-- 00E0 (R240). -/
  | clearScreen
  /-- 00EE (R140). -/
  | returnFromSubroutine
  /-- 1NNN (R141). -/
  | jump (nnn : Addr)
  /-- 2NNN (R142). -/
  | callSubroutine (nnn : Addr)
  /-- 3XNN (R143). -/
  | skipEqualVal (x : Nibble) (nn : Byte)
  /-- 4XNN (R144). -/
  | skipNotEqualVal (x : Nibble) (nn : Byte)
  /-- 5XY0 (R145). -/
  | skipEqualReg (x y : Nibble)
  /-- 9XY0 (R146). -/
  | skipNotEqualReg (x y : Nibble)
  /-- 6XNN (R171). -/
  | setRegVal (x : Nibble) (nn : Byte)
  /-- 7XNN (R172). -/
  | addWithoutCarry (x : Nibble) (nn : Byte)
  /-- 8XY0 (R173). -/
  | setRegReg (x y : Nibble)
  /-- 8XY1 (R174). -/
  | binOR (x y : Nibble)
  /-- 8XY2 (R175). -/
  | binAND (x y : Nibble)
  /-- 8XY3 (R176). -/
  | binXOR (x y : Nibble)
  /-- 8XY4 (R177). -/
  | addWithCarry (x y : Nibble)
  /-- 8XY5 (R178). -/
  | subtract (x y : Nibble)
  /-- 8XY7 (R179). -/
  | subtractNegate (x y : Nibble)
  /-- 8XY6 (R181). -/
  | shiftRight (x y : Nibble)
  /-- 8XYE (R182). -/
  | shiftLeft (x y : Nibble)
  /-- ANNN (R210). -/
  | setIndex (nnn : Addr)
  /-- BNNN (R147); `x` is bits 11–8 of the same word, so it repeats the top nibble of `nnn` (`Instr.WF`). -/
  | jumpWithOffset (nnn : Addr) (x : Nibble)
  /-- CXNN (R183). -/
  | generateRandomNumber (x : Nibble) (nn : Byte)
  /-- DXYN (R241). -/
  | draw (x y n : Nibble)
  /-- EX9E (R260). -/
  | skipIfKeyPressed (x : Nibble)
  /-- EXA1 (R262). -/
  | skipIfKeyNotPressed (x : Nibble)
  /-- FX07 (R263). -/
  | readDelayTimer (x : Nibble)
  /-- FX15 (R264). -/
  | writeDelayTimer (x : Nibble)
  /-- FX18 (R265). -/
  | writeSoundTimer (x : Nibble)
  /-- FX1E (R211). -/
  | addToIndex (x : Nibble)
  /-- FX0A (R266). -/
  | getKey (x : Nibble)
  /-- FX29 (R212). -/
  | fontCharacter (x : Nibble)
  /-- FX33 (R213). -/
  | bcdConvert (x : Nibble)
  /-- FX55 (R216). -/
  | storeRegisters (x : Nibble)
  /-- FX65 (R217). -/
  | loadRegisters (x : Nibble)
  /-- Any other word (R290); `w` is the whole word, and no row matches it (`Instr.WF`). -/
  | defaultOp (w : Word)
  deriving DecidableEq, Repr

end Sys2Proof
end

