-- ==== Sys2Proof/WellFormed.lean ====
section
/-! DEFINITION. The opcode map as data (30_encoding R106: mask and match of each row) and the two checks an instruction term must pass. -/
namespace Sys2Proof

/-- A row of the opcode map: a word belongs to it when `word &&& mask = value`. -/
structure OpcodeRow where
  mnemonic : String
  mask : Word
  value : Word
  deriving DecidableEq, Repr

/-- The rows of R106, control-flow and register rows 1–19, in the source's order. -/
def opcodeMapLow : List OpcodeRow := [
  ⟨"clearScreen", 0xFFFF, 0x00E0⟩,
  ⟨"returnFromSubroutine", 0xFFFF, 0x00EE⟩,
  ⟨"jump", 0xF000, 0x1000⟩,
  ⟨"callSubroutine", 0xF000, 0x2000⟩,
  ⟨"skipEqualVal", 0xF000, 0x3000⟩,
  ⟨"skipNotEqualVal", 0xF000, 0x4000⟩,
  ⟨"skipEqualReg", 0xF00F, 0x5000⟩,
  ⟨"skipNotEqualReg", 0xF00F, 0x9000⟩,
  ⟨"setRegVal", 0xF000, 0x6000⟩,
  ⟨"addWithoutCarry", 0xF000, 0x7000⟩,
  ⟨"setRegReg", 0xF00F, 0x8000⟩,
  ⟨"binOR", 0xF00F, 0x8001⟩,
  ⟨"binAND", 0xF00F, 0x8002⟩,
  ⟨"binXOR", 0xF00F, 0x8003⟩,
  ⟨"addWithCarry", 0xF00F, 0x8004⟩,
  ⟨"subtract", 0xF00F, 0x8005⟩,
  ⟨"subtractNegate", 0xF00F, 0x8007⟩,
  ⟨"shiftRight", 0xF00F, 0x8006⟩,
  ⟨"shiftLeft", 0xF00F, 0x800E⟩]

/-- The rows of R106, rows 20–34, in the source's order. -/
def opcodeMapHigh : List OpcodeRow := [
  ⟨"setIndex", 0xF000, 0xA000⟩,
  ⟨"jumpWithOffset", 0xF000, 0xB000⟩,
  ⟨"generateRandomNumber", 0xF000, 0xC000⟩,
  ⟨"draw", 0xF000, 0xD000⟩,
  ⟨"skipIfKeyPressed", 0xF0FF, 0xE09E⟩,
  ⟨"skipIfKeyNotPressed", 0xF0FF, 0xE0A1⟩,
  ⟨"readDelayTimer", 0xF0FF, 0xF007⟩,
  ⟨"writeDelayTimer", 0xF0FF, 0xF015⟩,
  ⟨"writeSoundTimer", 0xF0FF, 0xF018⟩,
  ⟨"addToIndex", 0xF0FF, 0xF01E⟩,
  ⟨"getKey", 0xF0FF, 0xF00A⟩,
  ⟨"fontCharacter", 0xF0FF, 0xF029⟩,
  ⟨"bcdConvert", 0xF0FF, 0xF033⟩,
  ⟨"storeRegisters", 0xF0FF, 0xF055⟩,
  ⟨"loadRegisters", 0xF0FF, 0xF065⟩]

/-- The 34 rows of R106. The fallback is no row: it takes the words none of these matches. -/
def opcodeMap : List OpcodeRow := opcodeMapLow ++ opcodeMapHigh

/-- The word belongs to the row. -/
def OpcodeRow.matchesWord (r : OpcodeRow) (w : Word) : Bool := w &&& r.mask == r.value

/-- Some row of R106 matches the word; otherwise it is unrecognized (R108). -/
def recognized (w : Word) : Bool := opcodeMap.any fun r => r.matchesWord w

/-- The mnemonic of an instruction, as spec/opcode_table.json spells it. -/
def Instr.mnemonic : Instr → String
  | .clearScreen => "clearScreen"
  | .returnFromSubroutine => "returnFromSubroutine"
  | .jump _ => "jump"
  | .callSubroutine _ => "callSubroutine"
  | .skipEqualVal _ _ => "skipEqualVal"
  | .skipNotEqualVal _ _ => "skipNotEqualVal"
  | .skipEqualReg _ _ => "skipEqualReg"
  | .skipNotEqualReg _ _ => "skipNotEqualReg"
  | .setRegVal _ _ => "setRegVal"
  | .addWithoutCarry _ _ => "addWithoutCarry"
  | .setRegReg _ _ => "setRegReg"
  | .binOR _ _ => "binOR"
  | .binAND _ _ => "binAND"
  | .binXOR _ _ => "binXOR"
  | .addWithCarry _ _ => "addWithCarry"
  | .subtract _ _ => "subtract"
  | .subtractNegate _ _ => "subtractNegate"
  | .shiftRight _ _ => "shiftRight"
  | .shiftLeft _ _ => "shiftLeft"
  | .setIndex _ => "setIndex"
  | .jumpWithOffset _ _ => "jumpWithOffset"
  | .generateRandomNumber _ _ => "generateRandomNumber"
  | .draw _ _ _ => "draw"
  | .skipIfKeyPressed _ => "skipIfKeyPressed"
  | .skipIfKeyNotPressed _ => "skipIfKeyNotPressed"
  | .readDelayTimer _ => "readDelayTimer"
  | .writeDelayTimer _ => "writeDelayTimer"
  | .writeSoundTimer _ => "writeSoundTimer"
  | .addToIndex _ => "addToIndex"
  | .getKey _ => "getKey"
  | .fontCharacter _ => "fontCharacter"
  | .bcdConvert _ => "bcdConvert"
  | .storeRegisters _ => "storeRegisters"
  | .loadRegisters _ => "loadRegisters"
  | .defaultOp _ => "defaultOp"

/-- An instruction term some word stands for. Every field is exactly as wide as the word's, so only two terms can be
ill-formed: `jumpWithOffset`, whose X must be the top nibble of its NNN (R147), and `defaultOp`, whose word no row may
match (R290). -/
def Instr.WF : Instr → Bool
  | .jumpWithOffset nnn x => nnn.extractLsb' 8 4 == x
  | .defaultOp w => !recognized w
  | .clearScreen => true
  | .returnFromSubroutine => true
  | .jump _ => true
  | .callSubroutine _ => true
  | .skipEqualVal _ _ => true
  | .skipNotEqualVal _ _ => true
  | .skipEqualReg _ _ => true
  | .skipNotEqualReg _ _ => true
  | .setRegVal _ _ => true
  | .addWithoutCarry _ _ => true
  | .setRegReg _ _ => true
  | .binOR _ _ => true
  | .binAND _ _ => true
  | .binXOR _ _ => true
  | .addWithCarry _ _ => true
  | .subtract _ _ => true
  | .subtractNegate _ _ => true
  | .shiftRight _ _ => true
  | .shiftLeft _ _ => true
  | .setIndex _ => true
  | .generateRandomNumber _ _ => true
  | .draw _ _ _ => true
  | .skipIfKeyPressed _ => true
  | .skipIfKeyNotPressed _ => true
  | .readDelayTimer _ => true
  | .writeDelayTimer _ => true
  | .writeSoundTimer _ => true
  | .addToIndex _ => true
  | .getKey _ => true
  | .fontCharacter _ => true
  | .bcdConvert _ => true
  | .storeRegisters _ => true
  | .loadRegisters _ => true

end Sys2Proof
end

