-- ==== Sys2Proof/Decode.lean ====
section
/-! DEFINITION. Decoding (30_encoding R105–R108), total on every word; decoding from bytes, which refuses a cut word by name; and the encoder, written from the formats of R104. -/
namespace Sys2Proof

/-- `w[15:12]` (R102). -/
def fieldOp (w : Word) : Nibble := w.extractLsb' 12 4
/-- `w[11:8]` (R102). -/
def fieldX (w : Word) : Nibble := w.extractLsb' 8 4
/-- `w[7:4]` (R102). -/
def fieldY (w : Word) : Nibble := w.extractLsb' 4 4
/-- `w[3:0]` (R102). -/
def fieldN (w : Word) : Nibble := w.extractLsb' 0 4
/-- `w[7:0]` (R102). -/
def fieldNN (w : Word) : Byte := w.extractLsb' 0 8
/-- `w[11:0]` (R102). -/
def fieldNNN (w : Word) : Addr := w.extractLsb' 0 12

/-- The group 0x8 of R107, by the function code N. -/
def decodeGroup8 (w : Word) : Instr :=
  let x := fieldX w
  let y := fieldY w
  match fieldN w with
  | 0x0#4 => .setRegReg x y
  | 0x1#4 => .binOR x y
  | 0x2#4 => .binAND x y
  | 0x3#4 => .binXOR x y
  | 0x4#4 => .addWithCarry x y
  | 0x5#4 => .subtract x y
  | 0x7#4 => .subtractNegate x y
  | 0x6#4 => .shiftRight x y
  | 0xE#4 => .shiftLeft x y
  | _ => .defaultOp w

/-- The group 0xE of R107, by the function code NN. -/
def decodeGroupE (w : Word) : Instr :=
  match fieldNN w with
  | 0x9E#8 => .skipIfKeyPressed (fieldX w)
  | 0xA1#8 => .skipIfKeyNotPressed (fieldX w)
  | _ => .defaultOp w

/-- The group 0xF of R107, by the function code NN. -/
def decodeGroupF (w : Word) : Instr :=
  let x := fieldX w
  match fieldNN w with
  | 0x07#8 => .readDelayTimer x
  | 0x0A#8 => .getKey x
  | 0x15#8 => .writeDelayTimer x
  | 0x18#8 => .writeSoundTimer x
  | 0x1E#8 => .addToIndex x
  | 0x29#8 => .fontCharacter x
  | 0x33#8 => .bcdConvert x
  | 0x55#8 => .storeRegisters x
  | 0x65#8 => .loadRegisters x
  | _ => .defaultOp w

/-- The decode algorithm of R107: a pure, total function of the word (R105). Every fixed digit must match; any other
word is `defaultOp` (R108). -/
def decode (w : Word) : Instr :=
  match fieldOp w with
  | 0x0#4 => if w = 0x00E0#16 then .clearScreen else if w = 0x00EE#16 then .returnFromSubroutine else .defaultOp w
  | 0x1#4 => .jump (fieldNNN w)
  | 0x2#4 => .callSubroutine (fieldNNN w)
  | 0x3#4 => .skipEqualVal (fieldX w) (fieldNN w)
  | 0x4#4 => .skipNotEqualVal (fieldX w) (fieldNN w)
  | 0x5#4 => if fieldN w = 0#4 then .skipEqualReg (fieldX w) (fieldY w) else .defaultOp w
  | 0x6#4 => .setRegVal (fieldX w) (fieldNN w)
  | 0x7#4 => .addWithoutCarry (fieldX w) (fieldNN w)
  | 0x8#4 => decodeGroup8 w
  | 0x9#4 => if fieldN w = 0#4 then .skipNotEqualReg (fieldX w) (fieldY w) else .defaultOp w
  | 0xA#4 => .setIndex (fieldNNN w)
  | 0xB#4 => .jumpWithOffset (fieldNNN w) (fieldX w)
  | 0xC#4 => .generateRandomNumber (fieldX w) (fieldNN w)
  | 0xD#4 => .draw (fieldX w) (fieldY w) (fieldN w)
  | 0xE#4 => decodeGroupE w
  | _ => decodeGroupF w

/-- The word of two bytes, the byte at the lower address first: big-endian (20_memory R71). -/
def wordOfBytes (hi lo : Byte) : Word := hi ++ lo

/-- The high byte of a word, which lies at the lower address (R71). -/
def wordHi (w : Word) : Byte := w.extractLsb' 8 8

/-- The low byte of a word, which lies at the higher address (R71). -/
def wordLo (w : Word) : Byte := w.extractLsb' 0 8

/-- Why bytes give no instruction. -/
inductive DecodeError where
  /-- Fewer than the two bytes every instruction has (R100). -/
  | truncated
  deriving DecidableEq, Repr

/-- Decode the first instruction of a byte stream, with the bytes after it. Every two bytes decode (R109). -/
def decodeBytes : List Byte → Except DecodeError (Instr × List Byte)
  | hi :: lo :: rest => .ok (decode (wordOfBytes hi lo), rest)
  | _ => .error .truncated

/-- Format `F_XYn` of R104. -/
def encodeXY (op x y fn : Nibble) : Word := op ++ x ++ y ++ fn

/-- Formats `F_XNN` and `F_Xnn` of R104. -/
def encodeXNN (op x : Nibble) (nn : Byte) : Word := op ++ x ++ nn

/-- Format `F_NNN` of R104. -/
def encodeNNN (op : Nibble) (nnn : Addr) : Word := op ++ nnn

/-- The word of an instruction (R104, R106). -/
def encode : Instr → Word
  | .clearScreen => 0x00E0#16
  | .returnFromSubroutine => 0x00EE#16
  | .jump nnn => encodeNNN 0x1#4 nnn
  | .callSubroutine nnn => encodeNNN 0x2#4 nnn
  | .skipEqualVal x nn => encodeXNN 0x3#4 x nn
  | .skipNotEqualVal x nn => encodeXNN 0x4#4 x nn
  | .skipEqualReg x y => encodeXY 0x5#4 x y 0x0#4
  | .skipNotEqualReg x y => encodeXY 0x9#4 x y 0x0#4
  | .setRegVal x nn => encodeXNN 0x6#4 x nn
  | .addWithoutCarry x nn => encodeXNN 0x7#4 x nn
  | .setRegReg x y => encodeXY 0x8#4 x y 0x0#4
  | .binOR x y => encodeXY 0x8#4 x y 0x1#4
  | .binAND x y => encodeXY 0x8#4 x y 0x2#4
  | .binXOR x y => encodeXY 0x8#4 x y 0x3#4
  | .addWithCarry x y => encodeXY 0x8#4 x y 0x4#4
  | .subtract x y => encodeXY 0x8#4 x y 0x5#4
  | .subtractNegate x y => encodeXY 0x8#4 x y 0x7#4
  | .shiftRight x y => encodeXY 0x8#4 x y 0x6#4
  | .shiftLeft x y => encodeXY 0x8#4 x y 0xE#4
  | .setIndex nnn => encodeNNN 0xA#4 nnn
  | .jumpWithOffset nnn _ => encodeNNN 0xB#4 nnn
  | .generateRandomNumber x nn => encodeXNN 0xC#4 x nn
  | .draw x y n => encodeXY 0xD#4 x y n
  | .skipIfKeyPressed x => encodeXNN 0xE#4 x 0x9E#8
  | .skipIfKeyNotPressed x => encodeXNN 0xE#4 x 0xA1#8
  | .readDelayTimer x => encodeXNN 0xF#4 x 0x07#8
  | .writeDelayTimer x => encodeXNN 0xF#4 x 0x15#8
  | .writeSoundTimer x => encodeXNN 0xF#4 x 0x18#8
  | .addToIndex x => encodeXNN 0xF#4 x 0x1E#8
  | .getKey x => encodeXNN 0xF#4 x 0x0A#8
  | .fontCharacter x => encodeXNN 0xF#4 x 0x29#8
  | .bcdConvert x => encodeXNN 0xF#4 x 0x33#8
  | .storeRegisters x => encodeXNN 0xF#4 x 0x55#8
  | .loadRegisters x => encodeXNN 0xF#4 x 0x65#8
  | .defaultOp w => w

/-- The two bytes of an instruction as they lie in memory, high byte first (R71). -/
def encodeBytes (i : Instr) : List Byte := [wordHi (encode i), wordLo (encode i)]

/-- What the decoder reads from an instruction whose bits are `w`, numbered as spec/opcode_table.json numbers them;
bits at and above `nbits` are 0. -/
def decodeTableWord (nbits w : Nat) : Option Instr :=
  let word : Word := BitVec.ofNat 16 (w % 2 ^ nbits)
  match decodeBytes [wordHi word, wordLo word] with
  | .ok (i, _) => some i
  | .error _ => none

end Sys2Proof
end

