-- ==== Sys2Proof/Config.lean ====
section
/-! DEFINITION. What an implementation fixes (the parameters of spec 00_scope R8 that a run reads) and the free values: the random byte and the answer to a key query above 15. -/
namespace Sys2Proof.Config

/-- `MEM_OOB`: what an access at an address above 0xFFF does (20_memory R74). -/
inductive MemOob where
  /-- The address is reduced modulo 4096. The spec's default. -/
  | wrap12
  /-- The address becomes 0xFFF. -/
  | clamp12
  /-- The access raises `MemOutOfRange`. -/
  | fault
  deriving DecidableEq, Repr

/-- The parameters a running machine reads; fixed for the machine (R8). No step changes them. -/
structure Params where
  /-- `MEM_OOB` (R74). -/
  memOob : MemOob
  /-- `STACK_LIMIT`: the maximum stack depth, `none` for unbounded (10_state R40). -/
  stackLimit : Option Nat
  deriving DecidableEq, Repr

/-- The spec's defaults: `Wrap12` (R74) and `none` (R40). -/
def Params.default : Params := { memOob := .wrap12, stackLimit := none }

/-- A limit, where there is one, is at least 1 (R8; 10_state R40). -/
def Params.wf (p : Params) : Bool :=
  match p.stackLimit with
  | none => true
  | some n => decide (1 ≤ n)

/-- The three quirk toggles (10_state R45). -/
structure Quirks where
  /-- `Q_SHIFT_VY`, the source's `useVYinShifts`: 8XY6 and 8XYE. -/
  shiftVY : Bool
  /-- `Q_JUMP_VX`, the source's `jumpWithOffsetAlt`: BNNN. -/
  jumpVX : Bool
  /-- `Q_INC_I`, the source's `incIduringRegRW`: FX55 and FX65. -/
  incI : Bool
  deriving DecidableEq, Repr

/-- `IPF`, instructions per frame of the reference schedule: at least 1 (R8). -/
abbrev Ipf := { n : Nat // 1 ≤ n }

/-- The spec's default (60_exceptions R331). -/
def defaultIpf : Ipf := ⟨11, by decide⟩

/-- FREE VALUE. The byte the random source returns at its `n`-th call (60_exceptions R326: any byte, no law). Log entry 7. -/
opaque randByte : Nat → Byte

/-- FREE VALUE. The input oracle's answer to its `n`-th query with a key code above 15 (44_input_timer R261: true or
false, possibly different at each call). Log entry 8. -/
opaque keyOracle : Nat → Bool

end Sys2Proof.Config
end

