-- ==== Sys2Proof/Machine/State.lean ====
section
/-! DEFINITION. The state of the machine as plain data (10_state R30), the reasons a step can stop, and the state after reset (R56). -/
namespace Sys2Proof.Machine

open Sys2Proof.Config

/-- The kinds of a recorded fault (60_exceptions R300). -/
inductive FaultKind where
  /-- Code 1: `returnFromSubroutine` with an empty stack. -/
  | stackUnderflow
  /-- Code 2: `callSubroutine` with the stack at its limit. -/
  | stackOverflow
  /-- Code 3: an address above 0xFFF with `MEM_OOB = Fault`. -/
  | memOutOfRange
  deriving DecidableEq, Repr

/-- A recorded fault: its kind and the info of R300 (the PC at the raise, or the lowest bad address). -/
structure FaultRecord where
  kind : FaultKind
  info : Nat
  deriving DecidableEq, Repr

/-- The core's run state (10_state R47). -/
inductive RunState where
  /-- Before `init()`: no tick is admitted. -/
  | idle
  /-- After `init()`. -/
  | running
  deriving DecidableEq, Repr

/-- A record of the diagnostic log (45_default_op R290, R291). -/
inductive DiagRecord where
  /-- `UnimplementedInstruction(w, a)`: the word and its address. -/
  | unimplementedInstruction (w a : Word)
  deriving DecidableEq, Repr

/-- What the host can do between ticks (60_exceptions R320, R330, R338). -/
inductive HostEvent where
  /-- `tick()` (30_encoding R111). -/
  | tick
  /-- The frame: decrement both timers, then consume the latch (60_exceptions R310, R311). -/
  | frame
  /-- A key goes down (R324). -/
  | keyDown (k : Nibble)
  /-- A key goes up (R324). -/
  | keyUp (k : Nibble)
  /-- The host writes the quirks (10_state R46). -/
  | writeQuirks (q : Quirks)
  /-- MemoryIO write, addressable 0..4095 (20_memory R83). -/
  | memWrite (a : Addr) (b : Byte)
  /-- TimerStore `setDelay(v)` by the host (10_state R44; R325). Log entry 21. -/
  | setDelay (b : Byte)
  /-- TimerStore `setSound(v)` by the host (10_state R44; R325). Log entry 21. -/
  | setSound (b : Byte)
  /-- `init()` (70_reset_and_hazards R350). -/
  | init
  deriving DecidableEq, Repr

/-- The framebuffer of 64×32 one-bit pixels: `fb[c][r]`, bit r of entry c, is the pixel at column c and row r, 1 for on
(10_state R51). -/
abbrev FrameBuffer := Vector (BitVec 32) 64

/-- Memory: the cells whose byte is not the one an unlisted address reads as, addresses rising (Machine/Memory.lean). -/
abbrev Memory := List Host.Cell

/-- The machine state: the tuple of R30, then the model's own fields. -/
structure State where
  /-- `V[0..15]` (R31); index 0xF is VF (R32). -/
  v : Vector Byte 16
  /-- `I` (R38). -/
  i : Word
  /-- `PC` (R34). -/
  pc : Word
  /-- `Stack`, the top last (R39). -/
  stack : List Word
  /-- `DT`, the delay counter (R44). -/
  dt : Byte
  /-- `ST`, the sound counter (R44). -/
  st : Byte
  /-- `Quirks` (R45). -/
  quirks : Quirks
  /-- `Mem[0..4095]` (R49). -/
  mem : Memory
  /-- `FB` (R51). -/
  fb : FrameBuffer
  /-- `Keys[0..15]`, true for down (R52). -/
  keys : Vector Bool 16
  /-- `FreshKey` (R53). -/
  freshKey : Option Nibble
  /-- `Run` (R47). -/
  run : RunState
  /-- `Fault` (R48). -/
  fault : Option FaultRecord
  /-- `DiagLog`, the oldest record first (R54). -/
  diagLog : List DiagRecord
  /-- MODEL'S OWN. `MEM_OOB` and `STACK_LIMIT`, fixed for a machine (00_scope R8). Log entry 1. -/
  params : Params
  /-- MODEL'S OWN. The index of the next random draw (60_exceptions R326). Log entry 7. -/
  randCount : Nat
  /-- MODEL'S OWN. The index of the next oracle answer to a key query above 15 (44_input_timer R261). Log entry 8. -/
  keyCount : Nat
  /-- MODEL'S OWN. The host events to come, the next one first; where it is empty, ticks follow (60_exceptions R330).
  Log entry 9. -/
  script : List HostEvent
  deriving DecidableEq, Repr

/-- Why a step stops. No instruction's meaning stops: only a tick the spec does not admit. -/
inductive Fault where
  /-- Raised by a tick in a state whose `fault` holds a record: "a tick after a fault is stuck" (60_exceptions R332).
  Safe: the spec says there is no step. -/
  | stuckAfterFault (r : FaultRecord)
  deriving DecidableEq, Repr

/-- What a step refuses. -/
inductive Refusal where
  /-- Raised by an arm of `exec` whose instruction has no meaning yet; no arm of this model does. Safe: nothing is
  claimed of the instruction. -/
  | notModelled (mnemonic : String)
  /-- Raised by a tick in `idle`: "a tick before init() is refused" (60_exceptions R332). Safe: the spec says there is
  no step. -/
  | tickBeforeInit
  /-- Raised by `init()` in `running`: the host may not "call init() a second time in a run" (60_exceptions R338). Safe:
  the spec does not admit the call. -/
  | initWhileRunning
  deriving DecidableEq, Repr

/-- What a step or a meaning answers. -/
abbrev Result := Host.Outcome State Fault Refusal

/-- The state at launch with no ROM (R56, 70_reset_and_hazards R353): PC 0x200, registers, timers and I zero, the stack
and the log empty, running. Where R56 names a parameter the value is the spec's default (params, the font) or the
model's choice: quirks false (entry 2), unlisted memory as `Memory.initial` (entries 3, 4), the screen off (entry 5), no
key down (entry 6). The model's own fields start at 0 and empty (entries 7, 8, 9). -/
def State.reset : State where
  v := Vector.replicate 16 0
  i := 0
  pc := 0x200
  stack := []
  dt := 0
  st := 0
  quirks := { shiftVY := false, jumpVX := false, incI := false }
  mem := []
  fb := Vector.replicate 64 0
  keys := Vector.replicate 16 false
  freshKey := none
  run := .running
  fault := none
  diagLog := []
  params := Params.default
  randCount := 0
  keyCount := 0
  script := []

end Sys2Proof.Machine
end

