-- ==== Sys2Proof/Machine/Memory.lean ====
section
/-! DEFINITION. Memory: what an unlisted address reads as, the canonical form, reading and writing one byte, and resolving an address above 0xFFF (20_memory R70–R77). -/
namespace Sys2Proof.Machine

open Sys2Proof.Config

/-- `MEM_SIZE`: addresses 0x000–0xFFF exist (00_scope R7). -/
def memSize : Nat := 4096

/-- `FONT_BASE` (00_scope R7). -/
def fontBase : Nat := 0x050

/-- `PROG_START` (00_scope R7). -/
def progStart : Nat := 0x200

/-- The spec's default `FONT`, glyphs 0–7 (10_state R50). Log entry 4. -/
def fontLow : List Byte := [
  0xF0, 0x90, 0x90, 0x90, 0xF0,
  0x20, 0x60, 0x20, 0x20, 0x70,
  0xF0, 0x10, 0xF0, 0x80, 0xF0,
  0xF0, 0x10, 0xF0, 0x10, 0xF0,
  0x90, 0x90, 0xF0, 0x10, 0x10,
  0xF0, 0x80, 0xF0, 0x10, 0xF0,
  0xF0, 0x80, 0xF0, 0x90, 0xF0,
  0xF0, 0x10, 0x20, 0x40, 0x40]

/-- The spec's default `FONT`, glyphs 8–F (R50); glyph A's bytes are the source's. Log entry 4. -/
def fontHigh : List Byte := [
  0xF0, 0x90, 0xF0, 0x90, 0xF0,
  0xF0, 0x90, 0xF0, 0x10, 0xF0,
  0xF0, 0x90, 0xF0, 0x90, 0x90,
  0xE0, 0x90, 0xE0, 0x90, 0xE0,
  0xF0, 0x80, 0x80, 0x80, 0xF0,
  0xE0, 0x90, 0x90, 0x90, 0xE0,
  0xF0, 0x80, 0xF0, 0x80, 0xF0,
  0xF0, 0x80, 0xF0, 0x80, 0x80]

/-- The 80 bytes at 0x050–0x09F (R50). -/
def fontDefault : List Byte := fontLow ++ fontHigh

/-- What an unlisted address reads as: the default font at 0x050–0x09F (R50), and 0 elsewhere, the model's choice for
`MEM_INIT_REST` (70_reset_and_hazards R353). Log entries 3, 4. -/
def Memory.initial (a : Nat) : Byte :=
  if fontBase ≤ a then (fontDefault[a - fontBase]?).getD 0 else 0

/-- The canonical form: addresses strictly rising and below 4096, no cell equal to what its address reads as unlisted. -/
def Memory.wf (m : Memory) : Bool :=
  decide (m.Pairwise fun c d => c.1 < d.1) &&
    m.all fun c => decide (c.1 < memSize) && c.2 != Memory.initial c.1

/-- The byte at an address (R70). -/
def Memory.read : Memory → Nat → Byte
  | [], a => Memory.initial a
  | (k, b) :: m, a => if k = a then b else Memory.read m a

/-- The cell of address `a` holding `b`: none where `b` is what the address reads as unlisted. -/
def Memory.cell (a : Nat) (b : Byte) : Memory := if b = Memory.initial a then [] else [(a, b)]

/-- Put cells in front of the first cell whose address is not below `a`. -/
def Memory.insertAt (a : Nat) (new : Memory) : Memory → Memory
  | [] => new
  | (k, c) :: m => if k < a then (k, c) :: Memory.insertAt a new m else new ++ (k, c) :: m

/-- Put byte `b` at address `a`, keeping the canonical form (R70, R79): the address's old cell goes, and its new one, if
it needs one, takes its place in the order. -/
def Memory.write (m : Memory) (a : Nat) (b : Byte) : Memory :=
  Memory.insertAt a (Memory.cell a b) (m.filter fun c => c.1 != a)

/-- Write bytes one by one, in the order of the list (R72). -/
def Memory.writeCells (m : Memory) : List (Nat × Byte) → Memory
  | [] => m
  | (a, b) :: rest => Memory.writeCells (Memory.write m a b) rest

/-- `Resolve(a)`: the address memory sees, or the address that raises `MemOutOfRange` (R74). -/
def resolve (o : MemOob) (a : Nat) : Except Nat Nat :=
  if a ≤ 0xFFF then .ok a
  else
    match o with
    | .wrap12 => .ok (a % 4096)
    | .clamp12 => .ok 0xFFF
    | .fault => .error a

/-- Resolve `n` addresses from `base` on, in ascending order, before anything changes; the error is the lowest address
that cannot be resolved (R75). -/
def resolveFrom (o : MemOob) (base : Nat) : Nat → Except Nat (List Nat)
  | 0 => .ok []
  | n + 1 =>
    match resolve o base with
    | .error a => .error a
    | .ok r =>
      match resolveFrom o (base + 1) n with
      | .error a => .error a
      | .ok rs => .ok (r :: rs)

end Sys2Proof.Machine
end

