-- ==== Sys2Proof/Machine/Ops.lean ====
section
/-! DEFINITION. The named operations over the state: registers, PC, stack, memory ranges, framebuffer, input, random source, diagnostics, and raising a fault. -/
namespace Sys2Proof.Machine

open Sys2Proof.Config

/-- `V[x]` (10_state R31). -/
def State.reg (s : State) (x : Nibble) : Byte := s.v[x.toNat]'(x.isLt)

/-- `V[x] <- b` (R31). -/
def State.setReg (s : State) (x : Nibble) (b : Byte) : State := { s with v := s.v.set x.toNat b x.isLt }

/-- `V[0xF] <- b`: the flag output (R32). -/
def State.setVF (s : State) (b : Byte) : State := s.setReg 0xF#4 b

/-- `V[k] <- b` for the bytes of a list and rising `k` (42_index_memory R215). -/
def State.setRegsFrom (s : State) (k : Nat) : List Byte → State
  | [] => s
  | b :: bs => State.setRegsFrom (s.setReg (BitVec.ofNat 4 k) b) (k + 1) bs

/-- The bytes of `V[0..x]`, in ascending order (R215). -/
def State.regsUpTo (s : State) (x : Nibble) : List Byte := s.v.toList.take (x.toNat + 1)

/-- `I <- n`, reduced modulo 2^16 (10_state R38). -/
def State.setI (s : State) (n : Nat) : State := { s with i := BitVec.ofNat 16 n }

/-- `PC <- n`, reduced modulo 2^16 (10_state R34). -/
def State.setPc (s : State) (n : Nat) : State := { s with pc := BitVec.ofNat 16 n }

/-- `PC <- PC + 2`: fetch's advance, and a skip over one word (30_encoding R101; 40_control_flow R148). -/
def State.advance (s : State) : State := s.setPc (s.pc.toNat + 2)

/-- `PC <- PC - 2` modulo 2^16: the rewind of `getKey` (44_input_timer R266). -/
def State.rewind (s : State) : State := { s with pc := s.pc - 2#16 }

/-- The address of the instruction being executed: PC holds `a + 2` from the end of fetch on (10_state R35). -/
def State.insnAddr (s : State) : Word := s.pc - 2#16

/-- `raise Fault(kind, info)`: nothing changes but the fault record; the state is the one the raising tick leaves
(10_state R48; 60_exceptions R300, R301). There is no trap entry and no return from one (R303), so this is the whole of
taking an exception. -/
def raise (s : State) (r : FaultRecord) : Result := .next { s with fault := some r }

/-- Go on with a value, or raise its fault in the state `s`. -/
def orRaise {α : Type} (s : State) (e : Except FaultRecord α) (k : α → Result) : Result :=
  match e with
  | .error r => raise s r
  | .ok a => k a

/-- `Push(v)` (10_state R41): append at the top, or `StackOverflow` with the PC where the depth is the limit. -/
def State.push (s : State) (v : Word) : Except FaultRecord State :=
  if s.params.stackLimit = some s.stack.length then .error ⟨.stackOverflow, s.pc.toNat⟩
  else .ok { s with stack := s.stack ++ [v] }

/-- `Pop()` (10_state R42): the top value and the rest, or `StackUnderflow` with the PC where the stack is empty. -/
def State.pop (s : State) : Except FaultRecord (Word × State) :=
  match s.stack.getLast? with
  | none => .error ⟨.stackUnderflow, s.pc.toNat⟩
  | some v => .ok (v, { s with stack := s.stack.dropLast })

/-- The stack's `top()`; no instruction uses it (10_state R43). -/
def State.stackTop (s : State) : Option Word := s.stack.getLast?

/-- The stack's `clear()`, used by `init()` (10_state R43). -/
def State.stackClear (s : State) : State := { s with stack := [] }

/-- The resolved addresses of an `n`-byte access at `base`, or `MemOutOfRange` with the lowest bad address (20_memory
R74, R75). -/
def State.resolveRange (s : State) (base n : Nat) : Except FaultRecord (List Nat) :=
  match resolveFrom s.params.memOob base n with
  | .error a => .error ⟨.memOutOfRange, a⟩
  | .ok rs => .ok rs

/-- The bytes at resolved addresses, in order (20_memory R72). -/
def State.readAll (s : State) (rs : List Nat) : List Byte := rs.map (Memory.read s.mem)

/-- Write bytes to resolved addresses, in order (20_memory R72). -/
def State.writeAll (s : State) (rs : List Nat) (bs : List Byte) : State :=
  { s with mem := Memory.writeCells s.mem (rs.zip bs) }

/-- The pixel at column `c` and row `r` (10_state R51). -/
def FrameBuffer.pixel (fb : FrameBuffer) (c : Fin 64) (r : Fin 32) : Bool := (fb[c.val]'(c.isLt))[r.val]'(r.isLt)

/-- A column with its row `r` set to a value. -/
def setColumnBit (col : BitVec 32) (r : Fin 32) (on : Bool) : BitVec 32 :=
  if on then col ||| BitVec.twoPow 32 r.val else col &&& ~~~BitVec.twoPow 32 r.val

/-- Set the pixel at column `c` and row `r` (R51). -/
def FrameBuffer.setPixel (fb : FrameBuffer) (c : Fin 64) (r : Fin 32) (on : Bool) : FrameBuffer :=
  fb.set c.val (setColumnBit (fb[c.val]'(c.isLt)) r on) c.isLt

/-- Every pixel off: the effect of `Display.clear()` (43_display R240). -/
def FrameBuffer.clear : FrameBuffer := Vector.replicate 64 0#32

/-- `KeyDown(k)`: `Keys[k]` for `k` up to 15, and the oracle's next answer above (10_state R52; 44_input_timer R261). -/
def State.keyDown (s : State) (k : Byte) : Bool × State :=
  if h : k.toNat < 16 then (s.keys[k.toNat]'h, s)
  else (keyOracle s.keyCount, { s with keyCount := s.keyCount + 1 })

/-- `Rand()`: the random source's next byte (60_exceptions R326). -/
def State.rand (s : State) : Byte × State := (randByte s.randCount, { s with randCount := s.randCount + 1 })

/-- `setDelay(v)`: `DT <- v` (10_state R44; 60_exceptions R325). -/
def State.setDelay (s : State) (b : Byte) : State := { s with dt := b }

/-- `setSound(v)`: `ST <- v` (10_state R44; 60_exceptions R325). -/
def State.setSound (s : State) (b : Byte) : State := { s with st := b }

/-- `Diag(m)`: append a record to the log and do nothing else (45_default_op R291). -/
def State.diag (s : State) (m : DiagRecord) : State := { s with diagLog := s.diagLog ++ [m] }

/-- `fetch()`: the word at PC, high byte first, and the state with PC advanced by 2; both addresses, PC and the unbounded
PC + 1, are resolved first, so the lower bad one is the fault's info (30_encoding R101; 20_memory R71, R75). Log entry
11. -/
def State.fetch (s : State) : Except FaultRecord (Word × State) :=
  match resolve s.params.memOob s.pc.toNat with
  | .error a => .error ⟨.memOutOfRange, a⟩
  | .ok hiAt =>
    match resolve s.params.memOob (s.pc.toNat + 1) with
    | .error a => .error ⟨.memOutOfRange, a⟩
    | .ok loAt => .ok (wordOfBytes (Memory.read s.mem hiAt) (Memory.read s.mem loAt), s.advance)

end Sys2Proof.Machine
end

