-- ==== Sys2Proof/Machine/Operands.lean ====
section
/-! DEFINITION. The operand forms (30_encoding R103): a register index, an unsigned byte, an unsigned row count, an unsigned 12-bit address; and the values built from them. -/
namespace Sys2Proof.Machine

open Sys2Proof.Config

/-- `zext_16(NNN)` as a number: an address immediate is unsigned (R103). -/
def addrOperand (nnn : Addr) : Nat := nnn.toNat

/-- The register BNNN adds: X with `Q_JUMP_VX`, V0 without (40_control_flow R147). -/
def jumpRegister (s : State) (x : Nibble) : Nibble := if s.quirks.jumpVX then x else 0#4

/-- The first statement of a shift: `if Q_SHIFT_VY then V[X] <- V[Y]` (41_alu R181, R182). -/
def shiftSource (s : State) (x y : Nibble) : State := if s.quirks.shiftVY then s.setReg x (s.reg y) else s

/-- `fontMap(d) = 0x050 + 5*d` (42_index_memory R214). -/
def fontMap (d : Nat) : Nat := fontBase + 5 * d

/-- The digit FX29 takes: the low nibble of the register (42_index_memory R212). -/
def fontDigit (b : Byte) : Nat := (b &&& 0x0F#8).toNat

/-- The three decimal digits of a byte, hundreds first (42_index_memory R213). -/
def bcdDigits (b : Byte) : List Byte :=
  [BitVec.ofNat 8 (b.toNat / 100), BitVec.ofNat 8 (b.toNat / 10 % 10), BitVec.ofNat 8 (b.toNat % 10)]

/-- The last statement of FX55 and FX65: `if Q_INC_I then I <- base + X + 1` (42_index_memory R216–R218). -/
def incIndex (s : State) (base : Nat) (x : Nibble) : State :=
  if s.quirks.incI then s.setI (base + x.toNat + 1) else s

end Sys2Proof.Machine
end

