-- ==== Sys2Proof/Machine/Alu.lean ====
section
/-! DEFINITION. Register and arithmetic instructions (41_alu). Operands are read before the statement that overwrites them, and the flag write to VF comes last (R170). -/
namespace Sys2Proof.Machine

/-- Write a result, then the flag: the flag wins where X = 0xF (R170; 10_state R32). -/
def writeWithFlag (s : State) (x : Nibble) (result flag : Byte) : Result := .next ((s.setReg x result).setVF flag)

/-- 6XNN: `V[X] <- NN` (R171). -/
def execSetRegVal (x : Nibble) (nn : Byte) (s : State) : Result := .next (s.setReg x nn)

/-- 7XNN: `V[X] <- (V[X] + NN) mod 256`, no flag (R172). -/
def execAddWithoutCarry (x : Nibble) (nn : Byte) (s : State) : Result := .next (s.setReg x (sumByte (s.reg x) nn))

/-- 8XY0: `V[X] <- V[Y]` (R173). -/
def execSetRegReg (x y : Nibble) (s : State) : Result := .next (s.setReg x (s.reg y))

/-- 8XY1: `V[X] <- V[X] | V[Y]`, no flag (R174). -/
def execBinOR (x y : Nibble) (s : State) : Result := .next (s.setReg x (s.reg x ||| s.reg y))

/-- 8XY2: `V[X] <- V[X] & V[Y]`, no flag (R175). -/
def execBinAND (x y : Nibble) (s : State) : Result := .next (s.setReg x (s.reg x &&& s.reg y))

/-- 8XY3: `V[X] <- V[X] ^ V[Y]`, no flag (R176). -/
def execBinXOR (x y : Nibble) (s : State) : Result := .next (s.setReg x (s.reg x ^^^ s.reg y))

/-- 8XY4 (R177). -/
def execAddWithCarry (x y : Nibble) (s : State) : Result :=
  writeWithFlag s x (sumByte (s.reg x) (s.reg y)) (carryFlag (s.reg x) (s.reg y))

/-- 8XY5: V[X] minus V[Y] (R178). -/
def execSubtract (x y : Nibble) (s : State) : Result :=
  writeWithFlag s x (diffByte (s.reg x) (s.reg y)) (noBorrowFlag (s.reg x) (s.reg y))

/-- 8XY7: V[Y] minus V[X] (R179). -/
def execSubtractNegate (x y : Nibble) (s : State) : Result :=
  writeWithFlag s x (diffByte (s.reg y) (s.reg x)) (noBorrowFlag (s.reg y) (s.reg x))

/-- 8XY6 (R181). -/
def execShiftRight (x y : Nibble) (s : State) : Result :=
  let t := shiftSource s x y
  writeWithFlag t x (shrByte (t.reg x)) (shrOut (t.reg x))

/-- 8XYE (R182). -/
def execShiftLeft (x y : Nibble) (s : State) : Result :=
  let t := shiftSource s x y
  writeWithFlag t x (shlByte (t.reg x)) (shlOut (t.reg x))

/-- CXNN: `r <- Rand(); V[X] <- r & NN` (R183). -/
def execGenerateRandomNumber (x : Nibble) (nn : Byte) (s : State) : Result :=
  .next (s.rand.2.setReg x (s.rand.1 &&& nn))

end Sys2Proof.Machine
end

