-- ==== Sys2Proof/Machine/ControlFlow.lean ====
section
/-! DEFINITION. Control transfer and conditional skips (40_control_flow). PC on entry holds `a + 2`. -/
namespace Sys2Proof.Machine

/-- Add 2 to PC where the condition holds: a skip passes over one word (R148). -/
def skipIf (c : Bool) (s : State) : Result := .next (if c then s.advance else s)

/-- 00EE: `PC <- Pop()` (R140). -/
def execReturnFromSubroutine (s : State) : Result :=
  orRaise s s.pop fun p => .next (p.2.setPc p.1.toNat)

/-- 1NNN: `PC <- zext_16(NNN)` (R141). -/
def execJump (nnn : Addr) (s : State) : Result := .next (s.setPc (addrOperand nnn))

/-- 2NNN: `Push(PC); PC <- zext_16(NNN)` (R142). -/
def execCallSubroutine (nnn : Addr) (s : State) : Result :=
  orRaise s (s.push s.pc) fun t => .next (t.setPc (addrOperand nnn))

/-- 3XNN (R143). -/
def execSkipEqualVal (x : Nibble) (nn : Byte) (s : State) : Result := skipIf (s.reg x == nn) s

/-- 4XNN (R144). -/
def execSkipNotEqualVal (x : Nibble) (nn : Byte) (s : State) : Result := skipIf (s.reg x != nn) s

/-- 5XY0 (R145). -/
def execSkipEqualReg (x y : Nibble) (s : State) : Result := skipIf (s.reg x == s.reg y) s

/-- 9XY0 (R146). -/
def execSkipNotEqualReg (x y : Nibble) (s : State) : Result := skipIf (s.reg x != s.reg y) s

/-- BNNN: `PC <- zext_16(NNN) + V[r]`, `r` being X or 0 by the quirk (R147). -/
def execJumpWithOffset (nnn : Addr) (x : Nibble) (s : State) : Result :=
  .next (s.setPc (addrOperand nnn + (s.reg (jumpRegister s x)).toNat))

end Sys2Proof.Machine
end

