-- ==== Sys2Proof/Machine/DefaultOp.lean ====
section
/-! DEFINITION. Unrecognized instruction words (45_default_op). -/
namespace Sys2Proof.Machine

/-- Any other word: one diagnostic record with the word and its address, and no other change (R290). -/
def execDefaultOp (w : Word) (s : State) : Result := .next (s.diag (.unimplementedInstruction w s.insnAddr))

end Sys2Proof.Machine
end

