-- ==== Sys2Proof/Machine/Display.lean ====
section
/-! DEFINITION. Display instructions (43_display), with the draw algorithm of the Display component (R242). -/
namespace Sys2Proof.Machine

/-- One pixel of a draw: it collides where it was on and the sprite bit is 1, and becomes their exclusive or (R242). -/
def drawPixel (acc : FrameBuffer × Bool) (tx : Fin 64) (ty : Fin 32) (bit : Bool) : FrameBuffer × Bool :=
  let cur := FrameBuffer.pixel acc.1 tx ty
  (FrameBuffer.setPixel acc.1 tx ty (cur ^^ bit), acc.2 || (cur && bit))

/-- One sprite row on screen row `ty`: bit 7 is the leftmost pixel, and each column wraps modulo 64 (R242). -/
def drawRow (x : Nat) (ty : Fin 32) (row : Byte) (acc : FrameBuffer × Bool) : FrameBuffer × Bool :=
  (List.range 8).foldl (fun acc b => drawPixel acc (Fin.ofNat 64 (x + b)) ty (row.getLsbD (7 - b))) acc

/-- The sprite rows, top to bottom, from screen row `y` on; each row wraps modulo 32 (R242). -/
def drawRows (x y : Nat) : List Byte → FrameBuffer × Bool → FrameBuffer × Bool
  | [], acc => acc
  | row :: rows, acc => drawRows x (y + 1) rows (drawRow x (Fin.ofNat 32 y) row acc)

/-- `DisplayDraw(x, y, rows)`: the new framebuffer and whether any pixel collided (R242, R244). -/
def displayDraw (fb : FrameBuffer) (x y : Nat) (rows : List Byte) : FrameBuffer × Bool := drawRows x y rows (fb, false)

/-- 00E0: every pixel off (R240). -/
def execClearScreen (s : State) : Result := .next { s with fb := FrameBuffer.clear }

/-- DXYN: the sprite's N bytes from I, drawn at (V[X] mod 64, V[Y] mod 32); VF is the collision (R241, R243). -/
def execDraw (x y n : Nibble) (s : State) : Result :=
  orRaise s (s.resolveRange s.i.toNat n.toNat) fun rs =>
    let d := displayDraw s.fb ((s.reg x).toNat % 64) ((s.reg y).toNat % 32) (s.readAll rs)
    .next ({ s with fb := d.1 }.setVF (flagByte d.2))

end Sys2Proof.Machine
end

