-- ==== Sys2Proof/Machine/IndexMemory.lean ====
section
/-! DEFINITION. Index register and memory instructions (42_index_memory). Every address is resolved before anything changes (20_memory R75). -/
namespace Sys2Proof.Machine

/-- ANNN: `I <- zext_16(NNN)` (R210). -/
def execSetIndex (nnn : Addr) (s : State) : Result := .next (s.setI (addrOperand nnn))

/-- FX1E: `I <- (I + V[X]) mod 2^16`; VF is set to 1 where the new I exceeds 0xFFF, and otherwise not written (R211). -/
def execAddToIndex (x : Nibble) (s : State) : Result :=
  let t := s.setI (s.i.toNat + (s.reg x).toNat)
  .next (if indexOverflow t.i then t.setVF 1#8 else t)

/-- FX29: `I <- fontMap(V[X] & 0xF)` (R212). -/
def execFontCharacter (x : Nibble) (s : State) : Result := .next (s.setI (fontMap (fontDigit (s.reg x))))

/-- FX33: the three digits to I, I+1, I+2 (R213). -/
def execBcdConvert (x : Nibble) (s : State) : Result :=
  orRaise s (s.resolveRange s.i.toNat 3) fun rs => .next (s.writeAll rs (bcdDigits (s.reg x)))

/-- FX55: V0..VX to memory at I, then I by the quirk (R216). -/
def execStoreRegisters (x : Nibble) (s : State) : Result :=
  orRaise s (s.resolveRange s.i.toNat (x.toNat + 1)) fun rs =>
    .next (incIndex (s.writeAll rs (s.regsUpTo x)) s.i.toNat x)

/-- FX65: V0..VX from memory at I, then I by the quirk (R217). -/
def execLoadRegisters (x : Nibble) (s : State) : Result :=
  orRaise s (s.resolveRange s.i.toNat (x.toNat + 1)) fun rs =>
    .next (incIndex (s.setRegsFrom 0 (s.readAll rs)) s.i.toNat x)

end Sys2Proof.Machine
end

