-- ==== Sys2Proof/Machine/InputTimer.lean ====
section
/-! DEFINITION. Keypad and timer instructions (44_input_timer). -/
namespace Sys2Proof.Machine

/-- EX9E: skip if the key named by V[X] is down (R260, R261). -/
def execSkipIfKeyPressed (x : Nibble) (s : State) : Result :=
  skipIf (s.keyDown (s.reg x)).1 (s.keyDown (s.reg x)).2

/-- EXA1: skip if the key named by V[X] is up (R262, R261). -/
def execSkipIfKeyNotPressed (x : Nibble) (s : State) : Result :=
  skipIf (!(s.keyDown (s.reg x)).1) (s.keyDown (s.reg x)).2

/-- FX07: `V[X] <- DT` (R263). -/
def execReadDelayTimer (x : Nibble) (s : State) : Result := .next (s.setReg x s.dt)

/-- FX15: `DT <- V[X]` (R264). -/
def execWriteDelayTimer (x : Nibble) (s : State) : Result := .next (s.setDelay (s.reg x))

/-- FX18: `ST <- V[X]` (R265). -/
def execWriteSoundTimer (x : Nibble) (s : State) : Result := .next (s.setSound (s.reg x))

/-- FX0A: the fresh key's code to V[X], or PC back to this instruction where there is none; the latch is only read
(R266; 10_state R53). -/
def execGetKey (x : Nibble) (s : State) : Result :=
  match s.freshKey with
  | none => .next s.rewind
  | some k => .next (s.setReg x (k.zeroExtend 8))

end Sys2Proof.Machine
end

