-- ==== Sys2Proof/Machine/Dispatch.lean ====
section
/-! DEFINITION. `execute(op)` (30_encoding R110): one arm per instruction, each one call of its meaning. PC already holds `a + 2`. -/
namespace Sys2Proof.Machine

def exec (i : Instr) (s : State) : Host.Outcome State Fault Refusal :=
  match i with
  | .clearScreen => Sys2Proof.Machine.execClearScreen s
  | .returnFromSubroutine => Sys2Proof.Machine.execReturnFromSubroutine s
  | .jump nnn => Sys2Proof.Machine.execJump nnn s
  | .callSubroutine nnn => Sys2Proof.Machine.execCallSubroutine nnn s
  | .skipEqualVal x nn => Sys2Proof.Machine.execSkipEqualVal x nn s
  | .skipNotEqualVal x nn => Sys2Proof.Machine.execSkipNotEqualVal x nn s
  | .skipEqualReg x y => Sys2Proof.Machine.execSkipEqualReg x y s
  | .skipNotEqualReg x y => Sys2Proof.Machine.execSkipNotEqualReg x y s
  | .setRegVal x nn => Sys2Proof.Machine.execSetRegVal x nn s
  | .addWithoutCarry x nn => Sys2Proof.Machine.execAddWithoutCarry x nn s
  | .setRegReg x y => Sys2Proof.Machine.execSetRegReg x y s
  | .binOR x y => Sys2Proof.Machine.execBinOR x y s
  | .binAND x y => Sys2Proof.Machine.execBinAND x y s
  | .binXOR x y => Sys2Proof.Machine.execBinXOR x y s
  | .addWithCarry x y => Sys2Proof.Machine.execAddWithCarry x y s
  | .subtract x y => Sys2Proof.Machine.execSubtract x y s
  | .subtractNegate x y => Sys2Proof.Machine.execSubtractNegate x y s
  | .shiftRight x y => Sys2Proof.Machine.execShiftRight x y s
  | .shiftLeft x y => Sys2Proof.Machine.execShiftLeft x y s
  | .setIndex nnn => Sys2Proof.Machine.execSetIndex nnn s
  | .jumpWithOffset nnn x => Sys2Proof.Machine.execJumpWithOffset nnn x s
  | .generateRandomNumber x nn => Sys2Proof.Machine.execGenerateRandomNumber x nn s
  | .draw x y n => Sys2Proof.Machine.execDraw x y n s
  | .skipIfKeyPressed x => Sys2Proof.Machine.execSkipIfKeyPressed x s
  | .skipIfKeyNotPressed x => Sys2Proof.Machine.execSkipIfKeyNotPressed x s
  | .readDelayTimer x => Sys2Proof.Machine.execReadDelayTimer x s
  | .writeDelayTimer x => Sys2Proof.Machine.execWriteDelayTimer x s
  | .writeSoundTimer x => Sys2Proof.Machine.execWriteSoundTimer x s
  | .addToIndex x => Sys2Proof.Machine.execAddToIndex x s
  | .getKey x => Sys2Proof.Machine.execGetKey x s
  | .fontCharacter x => Sys2Proof.Machine.execFontCharacter x s
  | .bcdConvert x => Sys2Proof.Machine.execBcdConvert x s
  | .storeRegisters x => Sys2Proof.Machine.execStoreRegisters x s
  | .loadRegisters x => Sys2Proof.Machine.execLoadRegisters x s
  | .defaultOp w => Sys2Proof.Machine.execDefaultOp w s

end Sys2Proof.Machine
end

