-- ==== Sys2Proof/Machine/HostEvents.lean ====
section
/-! DEFINITION. What the host does between ticks (60_exceptions R310, R311, R324, R330; 10_state R46; 20_memory R83), and `init()` (70_reset_and_hazards R350). -/
namespace Sys2Proof.Machine

open Sys2Proof.Config

/-- A counter's decrement, saturating at 0 (60_exceptions R310). -/
def countDown (b : Byte) : Byte := if b.toNat > 0 then BitVec.ofNat 8 (b.toNat - 1) else 0#8

/-- `frameDecrement()`: both timers, once (R310). -/
def State.frameDecrement (s : State) : State := { s with dt := countDown s.dt, st := countDown s.st }

/-- `consumeFreshInput()` (R311; 10_state R53). -/
def State.consumeFreshInput (s : State) : State := { s with freshKey := none }

/-- The frame event: decrement, then consume (R311). -/
def State.frameEvent (s : State) : State := s.frameDecrement.consumeFreshInput

/-- `keyDown(k)`: `Keys[k] <- 1`; the latch is not touched (R324). -/
def State.keyDownEvent (s : State) (k : Nibble) : State := { s with keys := s.keys.set k.toNat true k.isLt }

/-- `keyUp(k)`: `Keys[k] <- 0; FreshKey <- some k`, replacing what the latch held (R324). -/
def State.keyUpEvent (s : State) (k : Nibble) : State :=
  { s with keys := s.keys.set k.toNat false k.isLt, freshKey := some k }

/-- A quirk write (10_state R46). -/
def State.quirkWrite (s : State) (q : Quirks) : State := { s with quirks := q }

/-- A MemoryIO write (20_memory R83): the address is 0..4095 by its type. -/
def State.memoryIoWrite (s : State) (a : Addr) (b : Byte) : State := { s with mem := Memory.write s.mem a.toNat b }

/-- `init()`: V, I, the timers, the stack, PC and Run; nothing else (70_reset_and_hazards R350). -/
def State.init (s : State) : State :=
  { s.stackClear with v := Vector.replicate 16 0#8, i := 0#16, pc := 0x200#16, dt := 0#8, st := 0#8, run := .running }

/-- The host's call of `init()`: the only transition is idle to running (10_state R47), and a second call in a run is not
admitted (60_exceptions R338). -/
def initEvent (s : State) : Result :=
  match s.run with
  | .idle => .next s.init
  | .running => .refused .initWhileRunning

end Sys2Proof.Machine
end

