-- ==== Sys2Proof/Machine/Tick.lean ====
section
/-! DEFINITION. The tick (30_encoding R111), when it is admitted (60_exceptions R332), the host events as steps (R330), and the reference schedule (R331). -/
namespace Sys2Proof.Machine

/-- A tick is admitted only in `running` with no recorded fault (R332). -/
def State.admitted (s : State) : Bool := s.run == .running && s.fault == none

/-- fetch, decode, execute, once (R111): a fetch fault ends the tick before decode, with PC still at the instruction
(R301, R302). -/
def cycle (s : State) : Result := orRaise s s.fetch fun p => exec (decode p.1) p.2

/-- `tick()`: refused in idle, stuck after a fault, else one cycle (R332). -/
def tick (s : State) : Result :=
  match s.run, s.fault with
  | .idle, _ => .refused .tickBeforeInit
  | .running, some r => .fault (.stuckAfterFault r)
  | .running, none => cycle s

/-- One host event, whole (R330). -/
def runEvent (e : HostEvent) (s : State) : Result :=
  match e with
  | .tick => tick s
  | .frame => .next s.frameEvent
  | .keyDown k => .next (s.keyDownEvent k)
  | .keyUp k => .next (s.keyUpEvent k)
  | .writeQuirks q => .next (s.quirkWrite q)
  | .memWrite a b => .next (s.memoryIoWrite a b)
  | .setDelay b => .next (s.setDelay b)
  | .setSound b => .next (s.setSound b)
  | .init => initEvent s

/-- The next event of the script; where the script is empty, a tick (log entry 9). -/
def nextEvent (s : State) : Result :=
  match s.script with
  | [] => tick s
  | e :: rest => runEvent e { s with script := rest }

/-- Up to `n` ticks, fewer where one is not admitted (R331). -/
def tickBatch : Nat → State → State
  | 0, s => s
  | n + 1, s =>
    match tick s with
    | .next t => tickBatch n t
    | .fault _ => s
    | .refused _ => s

/-- One turn of the reference schedule: `IPF` ticks, then the frame (R331). -/
def quantum (ipf : Config.Ipf) (s : State) : State := (tickBatch ipf.val s).frameEvent

/-- `n` turns of the reference schedule as a script (R331). -/
def referenceScript (ipf : Config.Ipf) : Nat → List HostEvent
  | 0 => []
  | n + 1 => List.replicate ipf.val .tick ++ .frame :: referenceScript ipf n

/-- The state an end (b) of a run is in: the word at PC `p` is `1ppp`, a jump to itself, and a tick is admitted, so that a
faulted state is none (60_exceptions R337, R332). -/
def State.atSelfJump (s : State) : Bool :=
  s.admitted && decide (s.pc.toNat ≤ 0xFFF) &&
    match s.fetch with
    | .ok p => p.1 == encode (.jump (s.pc.truncate 12))
    | .error _ => false

/-- The end (a) of a run: the state after the given events, every tick among them admitted; none where it is faulted, or
where an event does not answer (R337). -/
def endAfter : List HostEvent → State → Option State
  | [], s => if s.fault = none then some s else none
  | e :: es, s =>
    match runEvent e s with
    | .next t => endAfter es t
    | .fault _ => none
    | .refused _ => none

/-- The end (b) of a run over the given events: the first state, after a tick, that stands at a jump to itself (R337). -/
def endAtSelfJump : List HostEvent → State → Option State
  | [], _ => none
  | e :: es, s =>
    match runEvent e s with
    | .next t => if e = .tick ∧ t.atSelfJump = true then some t else endAtSelfJump es t
    | .fault _ => none
    | .refused _ => none

/-- Store the two bytes of a word where the next fetch reads them, and make the next step a tick that is admitted. Where
an address cannot be resolved nothing is stored there. Log entry 16. -/
def placeWord (s : State) (w : Word) : State :=
  let store := fun (m : Memory) (a : Nat) (b : Byte) =>
    match resolve s.params.memOob a with
    | .ok r => Memory.write m r b
    | .error _ => m
  { s with
    mem := store (store s.mem s.pc.toNat (wordHi w)) (s.pc.toNat + 1) (wordLo w)
    run := .running
    fault := none
    script := [] }

end Sys2Proof.Machine
end

