-- ==== Sys2Proof/Machine/Step.lean ====
section
/-! DEFINITION. One step of the machine, and a word placed where the next step fetches it. -/
namespace Sys2Proof.Machine

/-- One step: the next host event of the script, or a tick where there is none (60_exceptions R330). -/
def step (s : State) : Host.Outcome State Fault Refusal := nextEvent s

/-- `s` with an instruction of `nbits` bits, numbered as spec/opcode_table.json numbers them, stored where `step` fetches
its next instruction. -/
def State.withFetchWord (s : State) (nbits w : Nat) : State := placeWord s (BitVec.ofNat 16 (w % 2 ^ nbits))

end Sys2Proof.Machine
end

