-- ==== Sys2Proof/Machine/Launch.lean ====
section
/-! DEFINITION. The launch of a ROM for every value of the launch parameters (70_reset_and_hazards R352–R354; 00_scope R8). -/
namespace Sys2Proof.Machine

open Sys2Proof.Config

/-- The launch parameters of R8, each within the bound R8 gives it: what the source leaves open about the state before the
first tick. `IPF` is the schedule's and no part of that state (Machine/Tick.lean). -/
structure LaunchParams where
  /-- `Q_SHIFT_VY`, `Q_JUMP_VX`, `Q_INC_I`. -/
  quirks : Quirks
  /-- `MEM_OOB`, `STACK_LIMIT`. -/
  params : Params
  /-- `STACK_LIMIT` is `none` or at least 1. -/
  limitOk : params.wf = true
  /-- `FONT`: 80 bytes. -/
  font : Vector Byte 80
  /-- `MEM_INIT_REST`: the byte at each address outside the font and the ROM. -/
  rest : Nat → Byte
  /-- `FB_INIT`. -/
  fb : FrameBuffer
  /-- `KEYS_INIT`. -/
  keys : Vector Bool 16

/-- The largest ROM: the size of 0x200..0xFFF (R354). -/
def romMax : Nat := 3584

/-- The first `n` addresses holding the bytes of an image, in canonical form. -/
def Memory.ofImage (f : Nat → Byte) : Nat → Memory
  | 0 => []
  | n + 1 => Memory.ofImage f n ++ Memory.cell n (f n)

/-- Bytes at rising addresses from `base` on. -/
def Memory.load (m : Memory) (base : Nat) : List Byte → Memory
  | [] => m
  | b :: bs => Memory.load (Memory.write m base b) (base + 1) bs

/-- Session start: the core idle, memory `MEM_INIT_REST` with the font written to 0x050 (R352 step 1). The core's own
registers mean nothing before `init()` (10_state R47); `init` writes every one of them. Log entry 12. -/
def sessionStart (p : LaunchParams) : State :=
  { State.reset with
    quirks := p.quirks
    params := p.params
    mem := Memory.load (Memory.ofImage p.rest memSize) fontBase p.font.toList
    fb := p.fb
    keys := p.keys
    run := .idle }

/-- The loader: a ROM that does not fit is rejected before any state is touched, else its bytes go to 0x200 on (R352
steps 2 and 3, R354). -/
def loadRom (rom : List Byte) (s : State) : Option State :=
  if rom.length ≤ romMax then some { s with mem := Memory.load s.mem progStart rom } else none

/-- `Launch(rom, params)`: the state after R352 step 4 (R353); none where the ROM is over 3584 bytes. -/
def launch (p : LaunchParams) (rom : List Byte) : Option State := (loadRom rom (sessionStart p)).map State.init

/-- The launch parameters `State.reset` stands on: the spec's defaults and the model's choices (log entries 1–6). -/
def LaunchParams.default : LaunchParams where
  quirks := State.reset.quirks
  params := Params.default
  limitOk := rfl
  font := Vector.ofFn fun k => Memory.initial (fontBase + k.val)
  rest := fun _ => 0#8
  fb := State.reset.fb
  keys := State.reset.keys

end Sys2Proof.Machine
end

