-- ==== Sys2Proof/Safety.lean ====
section
/-! DEFINITION. The terms claims are made in: the places an instruction can write, what a frame keeps, the invariant of a run, and the closed form of a sprite. -/
namespace Sys2Proof.Machine

open Sys2Proof.Config

/-- A place an instruction can write. -/
inductive Place where
  /-- `V[k]`. -/
  | reg (k : Nibble)
  /-- `I`. -/
  | index
  /-- `PC`. -/
  | pc
  /-- The return stack. -/
  | stack
  /-- `DT`. -/
  | dt
  /-- `ST`. -/
  | st
  /-- The byte of memory at an address. -/
  | byte (a : Nat)
  /-- The framebuffer. -/
  | screen
  /-- The diagnostic log. -/
  | log
  /-- The fault record. -/
  | fault
  /-- The index of the next random draw (the model's own). -/
  | randCount
  /-- The index of the next oracle answer (the model's own). -/
  | keyCount
  deriving DecidableEq, Repr

/-- The place holds in `t` what it holds in `s`; a byte and a pixel through the model's read of one. -/
def Place.same : Place → State → State → Prop
  | .reg k, s, t => t.reg k = s.reg k
  | .index, s, t => t.i = s.i
  | .pc, s, t => t.pc = s.pc
  | .stack, s, t => t.stack = s.stack
  | .dt, s, t => t.dt = s.dt
  | .st, s, t => t.st = s.st
  | .byte a, s, t => Memory.read t.mem a = Memory.read s.mem a
  | .screen, s, t => ∀ c r, FrameBuffer.pixel t.fb c r = FrameBuffer.pixel s.fb c r
  | .log, s, t => t.diagLog = s.diagLog
  | .fault, s, t => t.fault = s.fault
  | .randCount, s, t => t.randCount = s.randCount
  | .keyCount, s, t => t.keyCount = s.keyCount

/-- What no instruction writes: the quirks (10_state R45), the keys (R52), the latch (R53), the run state (R47), the
parameters and the script. -/
structure SameHostSide (s t : State) : Prop where
  quirks : t.quirks = s.quirks
  keys : t.keys = s.keys
  freshKey : t.freshKey = s.freshKey
  run : t.run = s.run
  params : t.params = s.params
  script : t.script = s.script

/-- `t` is `s` but for the listed places: the frame of a claim. -/
structure KeepsAllBut (ws : List Place) (s t : State) : Prop where
  host : SameHostSide s t
  places : ∀ p, p ∉ ws → p.same s t

/-- The place is a byte an `n`-byte store at I goes to: one of the resolved addresses, by the operation the meanings use,
and none where an address cannot be resolved (20_memory R70, R74, R75). -/
def Place.isStored (s : State) (n : Nat) : Place → Bool
  | .byte a =>
    match s.resolveRange s.i.toNat n with
    | .ok rs => rs.contains a
    | .error _ => false
  | .reg _ => false
  | .index => false
  | .pc => false
  | .stack => false
  | .dt => false
  | .st => false
  | .screen => false
  | .log => false
  | .fault => false
  | .randCount => false
  | .keyCount => false

/-- The place is one of `V[0..x]`. -/
def Place.isRegUpTo (x : Nibble) : Place → Bool
  | .reg k => decide (k.toNat ≤ x.toNat)
  | .byte _ => false
  | .index => false
  | .pc => false
  | .stack => false
  | .dt => false
  | .st => false
  | .screen => false
  | .log => false
  | .fault => false
  | .randCount => false
  | .keyCount => false

/-- What an instruction may write in a state, by the writers the spec names, place by place: VF (10_state R32), I (R38), the
stack (R39), DT and ST (R44), FB (R51), DiagLog (R54), memory (20_memory R70: I..I+2 and I..I+X, as resolved), the fault
record (60_exceptions R300). I is written by FX55 and FX65 only with `Q_INC_I`. -/
def mayWrite (s : State) : Instr → Place → Bool
  | .clearScreen, p => p == .screen
  | .returnFromSubroutine, p => p == .pc || p == .stack || p == .fault
  | .jump _, p => p == .pc
  | .callSubroutine _, p => p == .pc || p == .stack || p == .fault
  | .skipEqualVal _ _, p => p == .pc
  | .skipNotEqualVal _ _, p => p == .pc
  | .skipEqualReg _ _, p => p == .pc
  | .skipNotEqualReg _ _, p => p == .pc
  | .setRegVal x _, p => p == .reg x
  | .addWithoutCarry x _, p => p == .reg x
  | .setRegReg x _, p => p == .reg x
  | .binOR x _, p => p == .reg x
  | .binAND x _, p => p == .reg x
  | .binXOR x _, p => p == .reg x
  | .addWithCarry x _, p => p == .reg x || p == .reg 0xF#4
  | .subtract x _, p => p == .reg x || p == .reg 0xF#4
  | .subtractNegate x _, p => p == .reg x || p == .reg 0xF#4
  | .shiftRight x _, p => p == .reg x || p == .reg 0xF#4
  | .shiftLeft x _, p => p == .reg x || p == .reg 0xF#4
  | .setIndex _, p => p == .index
  | .jumpWithOffset _ _, p => p == .pc
  | .generateRandomNumber x _, p => p == .reg x || p == .randCount
  | .draw _ _ _, p => p == .screen || p == .reg 0xF#4 || p == .fault
  | .skipIfKeyPressed _, p => p == .pc || p == .keyCount
  | .skipIfKeyNotPressed _, p => p == .pc || p == .keyCount
  | .readDelayTimer x, p => p == .reg x
  | .writeDelayTimer _, p => p == .dt
  | .writeSoundTimer _, p => p == .st
  | .addToIndex _, p => p == .index || p == .reg 0xF#4
  | .getKey x, p => p == .reg x || p == .pc
  | .fontCharacter _, p => p == .index
  | .bcdConvert _, p => p.isStored s 3 || p == .fault
  | .storeRegisters x, p => p.isStored s (x.toNat + 1) || p == .fault || (s.quirks.incI && p == .index)
  | .loadRegisters x, p => p.isRegUpTo x || p == .fault || (s.quirks.incI && p == .index)
  | .defaultOp _, p => p == .log

/-- The instructions whose effect a quirk gates (10_state R45). -/
def quirkGated : Instr → Bool
  | .shiftRight _ _ => true
  | .shiftLeft _ _ => true
  | .jumpWithOffset _ _ => true
  | .storeRegisters _ => true
  | .loadRegisters _ => true
  | .clearScreen => false
  | .returnFromSubroutine => false
  | .jump _ => false
  | .callSubroutine _ => false
  | .skipEqualVal _ _ => false
  | .skipNotEqualVal _ _ => false
  | .skipEqualReg _ _ => false
  | .skipNotEqualReg _ _ => false
  | .setRegVal _ _ => false
  | .addWithoutCarry _ _ => false
  | .setRegReg _ _ => false
  | .binOR _ _ => false
  | .binAND _ _ => false
  | .binXOR _ _ => false
  | .addWithCarry _ _ => false
  | .subtract _ _ => false
  | .subtractNegate _ _ => false
  | .setIndex _ => false
  | .generateRandomNumber _ _ => false
  | .draw _ _ _ => false
  | .skipIfKeyPressed _ => false
  | .skipIfKeyNotPressed _ => false
  | .readDelayTimer _ => false
  | .writeDelayTimer _ => false
  | .writeSoundTimer _ => false
  | .addToIndex _ => false
  | .getKey _ => false
  | .fontCharacter _ => false
  | .bcdConvert _ => false
  | .defaultOp _ => false

/-- A recorded fault says what happened (60_exceptions R300, R301): the stack and PC are as the raise left them, and a
bad address is above 0xFFF in a machine with `MEM_OOB = Fault`. -/
def FaultRecord.truthful (r : FaultRecord) (s : State) : Prop :=
  match r.kind with
  | .stackUnderflow => s.stack = [] ∧ r.info = s.pc.toNat
  | .stackOverflow => s.params.stackLimit = some s.stack.length ∧ r.info = s.pc.toNat
  | .memOutOfRange => s.params.memOob = .fault ∧ 0xFFF < r.info ∧ r.info ≤ 0xFFFF

/-- The invariant of a run: memory is in canonical form, a stack limit is at least 1 (00_scope R8), the stack is within it
(10_state R40, R41), an idle core has no recorded fault, and a recorded fault is truthful. -/
structure State.Inv (s : State) : Prop where
  memory : Memory.wf s.mem = true
  limit : s.params.wf = true
  depth : ∀ n, s.params.stackLimit = some n → s.stack.length ≤ n
  idleClean : s.run = .idle → s.fault = none
  recorded : ∀ r, s.fault = some r → r.truthful s

/-- The bit of an `n`-row sprite at `I` that lands on column `c` and row `r` when it is drawn at (V[x] mod 64, V[y] mod
32), false where none does: each axis wraps (43_display R241–R243). -/
def spriteBit (s : State) (x y n : Nibble) (c : Fin 64) (r : Fin 32) : Bool :=
  let col := (c.val + 64 - (s.reg x).toNat % 64) % 64
  let row := (r.val + 32 - (s.reg y).toNat % 32) % 32
  decide (col < 8) && decide (row < n.toNat) &&
    match resolve s.params.memOob (s.i.toNat + row) with
    | .ok a => (Memory.read s.mem a).getLsbD (7 - col)
    | .error _ => false

/-- The access `base .. base + n - 1` can be resolved: a choice but `Fault`, or no address above 0xFFF (20_memory R74). -/
def Reachable (s : State) (base n : Nat) : Prop := s.params.memOob = .fault → n = 0 ∨ base + n ≤ 0x1000

/-- The state after fault `MemOutOfRange` on an access at `base`: only the record is written, with the lowest bad address
(20_memory R75; 60_exceptions R300). -/
def State.afterBadAccess (s : State) (base : Nat) : State :=
  { s with fault := some ⟨.memOutOfRange, max base 0x1000⟩ }

end Sys2Proof.Machine
end

