-- ==== Sys2Proof/Certificates/Slice0/Obligations.lean ====
section
/-! DEFINITION. The statements for the provers: what the numbered rules of spec/ say the instructions and the machine do. -/

open Sys2Proof Sys2Proof.Machine Sys2Proof.Config

/-! ### Encoding (30_encoding) -/

/-- Decode and encode agree: no bit of a well-formed instruction's encoding is dropped (R104–R107). -/
def Obligations.DecodeOfEncode : Prop := ∀ i : Instr, i.WF = true → decode (encode i) = i

/-- Every word decodes to a well-formed instruction, which encodes back to it (R105, R109). -/
def Obligations.EncodeOfDecode : Prop := ∀ w : Word, (decode w).WF = true ∧ encode (decode w) = w

/-- R106: a word is the operation of the row whose pattern it matches, any other word is `defaultOp`, and no two rows
match the same word. -/
def Obligations.DecodeFollowsOpcodeMap : Prop :=
  ∀ w : Word,
    (∀ r ∈ opcodeMap, r.matchesWord w = true → (decode w).mnemonic = r.mnemonic) ∧
    ((∀ r ∈ opcodeMap, r.matchesWord w = false) → decode w = .defaultOp w) ∧
    ∀ r₁ ∈ opcodeMap, ∀ r₂ ∈ opcodeMap, r₁.matchesWord w = true → r₂.matchesWord w = true → r₁ = r₂

/-- R108: the unrecognized words, by their digits, are exactly the words that decode to `defaultOp`, which adds one
diagnostic and changes nothing else. -/
def Obligations.UnrecognizedWords : Prop :=
  ∀ w : Word,
    (∀ s : State, ∃ t, exec (.defaultOp w) s = .next t ∧ t.diagLog.length = s.diagLog.length + 1 ∧
      KeepsAllBut [.log] s t) ∧
    (decode w = .defaultOp w ↔
      (w.toNat / 4096 = 0 ∧ w.toNat ≠ 0x00E0 ∧ w.toNat ≠ 0x00EE) ∨
      (w.toNat / 4096 = 5 ∧ w.toNat % 16 ≠ 0) ∨
      (w.toNat / 4096 = 8 ∧ w.toNat % 16 ∈ [0x8, 0x9, 0xA, 0xB, 0xC, 0xD, 0xF]) ∨
      (w.toNat / 4096 = 9 ∧ w.toNat % 16 ≠ 0) ∨
      (w.toNat / 4096 = 0xE ∧ w.toNat % 256 ∉ [0x9E, 0xA1]) ∨
      (w.toNat / 4096 = 0xF ∧ w.toNat % 256 ∉ [0x07, 0x0A, 0x15, 0x18, 0x1E, 0x29, 0x33, 0x55, 0x65]))

/-- A few words of every family, written out from the spec, decode to the instructions they stand for (R106). -/
def Obligations.SampleWordsDecode : Prop :=
  decode 0x00EE#16 = .returnFromSubroutine ∧ decode 0x1234#16 = .jump 0x234#12 ∧
    decode 0x322A#16 = .skipEqualVal 0x2#4 0x2A#8 ∧ decode 0xB300#16 = .jumpWithOffset 0x300#12 0x3#4 ∧
    decode 0x8236#16 = .shiftRight 0x2#4 0x3#4 ∧ decode 0x81F4#16 = .addWithCarry 0x1#4 0xF#4 ∧
    decode 0xC00F#16 = .generateRandomNumber 0x0#4 0x0F#8 ∧ decode 0xF333#16 = .bcdConvert 0x3#4 ∧
    decode 0xA050#16 = .setIndex 0x050#12 ∧ decode 0x00E0#16 = .clearScreen ∧
    decode 0xD125#16 = .draw 0x1#4 0x2#4 0x5#4 ∧ decode 0xE5A1#16 = .skipIfKeyNotPressed 0x5#4 ∧
    decode 0xF30A#16 = .getKey 0x3#4 ∧ decode 0x5121#16 = .defaultOp 0x5121#16

/-- The bytes of an instruction as they lie in memory, followed by any bytes, decode to it and leave those bytes; fewer
than two bytes are refused by name (R71, R100). -/
def Obligations.BytesDecodeInOrder : Prop :=
  (∀ (i : Instr) (rest : List Byte), i.WF = true → decodeBytes (encodeBytes i ++ rest) = .ok (i, rest)) ∧
    ∀ bs : List Byte, bs.length < 2 → decodeBytes bs = .error .truncated

/-! ### The cycle (30_encoding, 60_exceptions, 20_memory) -/

/-- A step runs the decoded instruction (R101, R110, R111): where the word at PC decodes to `i` and a tick is due and
admitted, the step is `exec i` with PC moved past the word; a `tick` of the script, the model's own (log entry 9), is used
up. -/
def Obligations.StepRunsDecodedInstruction : Prop :=
  ∀ (s : State) (i : Instr) (hiAt loAt : Nat),
    s.run = .running → s.fault = none →
    resolve s.params.memOob s.pc.toNat = .ok hiAt → resolve s.params.memOob (s.pc.toNat + 1) = .ok loAt →
    decode (wordOfBytes (Memory.read s.mem hiAt) (Memory.read s.mem loAt)) = i →
    (s.script = [] → step s = exec i { s with pc := s.pc + 2#16 }) ∧
      ∀ rest, s.script = .tick :: rest → step s = exec i { s with pc := s.pc + 2#16, script := rest }

/-- R71: the byte at the lower address is the high byte of the word fetch returns; fetch changes PC alone, by 2 modulo
2^16, wherever both addresses can be resolved. -/
def Obligations.FetchIsBigEndian : Prop :=
  ∀ s : State, Reachable s s.pc.toNat 2 →
    ∃ (hiAt loAt : Nat) (w : Word) (t : State),
      resolve s.params.memOob s.pc.toNat = .ok hiAt ∧ resolve s.params.memOob (s.pc.toNat + 1) = .ok loAt ∧
      s.fetch = .ok (w, t) ∧
      w.toNat = (Memory.read s.mem hiAt).toNat * 256 + (Memory.read s.mem loAt).toNat ∧
      t.pc.toNat = (s.pc.toNat + 2) % 65536 ∧ KeepsAllBut [.pc] s t

/-- A fetch that passes 0xFFF with `MEM_OOB = Fault` ends the tick before decode: only the fault record changes, with the
lowest bad address, and PC stays at the instruction (20_memory R75; 60_exceptions R300–R302). Which address is recorded is
the model's choice between two rules (log entry 11), that a tick comes next log entry 9. -/
def Obligations.FetchFaultChangesOnlyFault : Prop :=
  ∀ s : State, s.run = .running → s.fault = none → s.script = [] → s.params.memOob = .fault →
    0xFFF < s.pc.toNat + 1 → step s = .next (s.afterBadAccess s.pc.toNat)

/-- R332: a tick is refused in idle, stuck after a fault, and otherwise completes. -/
def Obligations.TickAdmission : Prop :=
  ∀ s : State,
    (s.run = .idle → tick s = .refused .tickBeforeInit) ∧
    (∀ r, s.run = .running → s.fault = some r → tick s = .fault (.stuckAfterFault r)) ∧
    (s.run = .running → s.fault = none → ∃ t, tick s = .next t)

/-- No instruction stops: whatever the operands and the state, `exec` answers a next state (R109, R110, R112). -/
def Obligations.EveryInstructionCompletes : Prop := ∀ (i : Instr) (s : State), ∃ t, exec i s = .next t

/-- A state at a jump to its own address has no recorded fault and is a fixed point of the tick, and so of the step on an
empty script (60_exceptions R337; 40_control_flow R141); that an empty script means a tick is the model's choice (log entry
9). -/
def Obligations.SelfJumpIsFixedPoint : Prop :=
  ∀ s : State, s.atSelfJump = true → s.fault = none ∧ tick s = .next s ∧ (s.script = [] → step s = .next s)

/-! ### Memory (20_memory) -/

/-- R74: how an address is resolved, and what reading and writing a resolved address does. -/
def Obligations.ResolveThenAccess : Prop :=
  (∀ o a, a ≤ 0xFFF → resolve o a = .ok a) ∧
    (∀ a, 0xFFF < a →
      resolve .wrap12 a = .ok (a % 4096) ∧ resolve .clamp12 a = .ok 0xFFF ∧ resolve .fault a = .error a) ∧
    (∀ (m : Memory) (a : Nat) (b : Byte) (k : Nat),
      Memory.read (Memory.write m a b) k = if k = a then b else Memory.read m k) ∧
    State.reset.params.memOob = .wrap12

/-- Memories in canonical form that read alike are equal data: the form is canonical (the model's representation of R70;
log entry 18). -/
def Obligations.CanonicalMemoryIsUnique : Prop :=
  ∀ m n : Memory, Memory.wf m = true → Memory.wf n = true → (∀ a, Memory.read m a = Memory.read n a) → m = n

/-- An access of an instruction past 0xFFF with `MEM_OOB = Fault` changes the fault record alone, which names the lowest
bad address (R75; 60_exceptions R300, R301). -/
def Obligations.BadAccessChangesOnlyFault : Prop :=
  ∀ (x y n : Nibble) (s : State), s.params.memOob = .fault →
    (0xFFF < s.i.toNat + 2 → exec (.bcdConvert x) s = .next (s.afterBadAccess s.i.toNat)) ∧
    (0xFFF < s.i.toNat + x.toNat → exec (.storeRegisters x) s = .next (s.afterBadAccess s.i.toNat)) ∧
    (0xFFF < s.i.toNat + x.toNat → exec (.loadRegisters x) s = .next (s.afterBadAccess s.i.toNat)) ∧
    (1 ≤ n.toNat → 0xFFF < s.i.toNat + n.toNat - 1 → exec (.draw x y n) s = .next (s.afterBadAccess s.i.toNat))

/-! ### Register and arithmetic instructions (41_alu) -/

/-- R171, R173: the byte, or the other register's value. -/
def Obligations.SetRegLoadsByteOrRegister : Prop :=
  ∀ (x y : Nibble) (nn : Byte) (s : State),
    (decode (0x6#4 ++ x ++ nn) = .setRegVal x nn ∧
      ∃ t, exec (.setRegVal x nn) s = .next t ∧ t.reg x = nn ∧ KeepsAllBut [.reg x] s t) ∧
    (decode (0x8#4 ++ x ++ y ++ 0x0#4) = .setRegReg x y ∧
      ∃ t, exec (.setRegReg x y) s = .next t ∧ t.reg x = s.reg y ∧ KeepsAllBut [.reg x] s t)

/-- R172: the sum modulo 256, and no flag. -/
def Obligations.AddWithoutCarryTouchesNoFlag : Prop :=
  ∀ (x : Nibble) (nn : Byte) (s : State),
    decode (0x7#4 ++ x ++ nn) = .addWithoutCarry x nn ∧
    ∃ t, exec (.addWithoutCarry x nn) s = .next t ∧
      (t.reg x).toNat = ((s.reg x).toNat + nn.toNat) % 256 ∧ KeepsAllBut [.reg x] s t

/-- R174, R175, R176: bit by bit, with no flag. -/
def Obligations.BitwiseOpsTouchNoFlag : Prop :=
  ∀ (x y : Nibble) (s : State),
    (decode (0x8#4 ++ x ++ y ++ 0x1#4) = .binOR x y ∧
      ∃ t, exec (.binOR x y) s = .next t ∧
        (∀ b < 8, (t.reg x).getLsbD b = ((s.reg x).getLsbD b || (s.reg y).getLsbD b)) ∧ KeepsAllBut [.reg x] s t) ∧
    (decode (0x8#4 ++ x ++ y ++ 0x2#4) = .binAND x y ∧
      ∃ t, exec (.binAND x y) s = .next t ∧
        (∀ b < 8, (t.reg x).getLsbD b = ((s.reg x).getLsbD b && (s.reg y).getLsbD b)) ∧ KeepsAllBut [.reg x] s t) ∧
    (decode (0x8#4 ++ x ++ y ++ 0x3#4) = .binXOR x y ∧
      ∃ t, exec (.binXOR x y) s = .next t ∧
        (∀ b < 8, (t.reg x).getLsbD b = ((s.reg x).getLsbD b ^^ (s.reg y).getLsbD b)) ∧ KeepsAllBut [.reg x] s t)

/-- R177: the sum modulo 256 and the carry; VF is the carry where X = 0xF. -/
def Obligations.AddWithCarrySetsCarry : Prop :=
  ∀ (x y : Nibble) (s : State),
    decode (0x8#4 ++ x ++ y ++ 0x4#4) = .addWithCarry x y ∧
    ∃ t, exec (.addWithCarry x y) s = .next t ∧
      (x ≠ 0xF#4 → (t.reg x).toNat = ((s.reg x).toNat + (s.reg y).toNat) % 256) ∧
      (t.reg 0xF#4).toNat = (if (s.reg x).toNat + (s.reg y).toNat > 255 then 1 else 0) ∧
      KeepsAllBut [.reg x, .reg 0xF#4] s t

/-- R178: V[X] minus V[Y] modulo 256, and VF = 1 exactly without borrow. -/
def Obligations.SubtractSetsNoBorrow : Prop :=
  ∀ (x y : Nibble) (s : State),
    decode (0x8#4 ++ x ++ y ++ 0x5#4) = .subtract x y ∧
    ∃ t, exec (.subtract x y) s = .next t ∧
      (x ≠ 0xF#4 → ((t.reg x).toNat : Int) = (((s.reg x).toNat : Int) - ((s.reg y).toNat : Int)) % 256) ∧
      (t.reg 0xF#4).toNat = (if ((s.reg x).toNat : Int) - ((s.reg y).toNat : Int) ≥ 0 then 1 else 0) ∧
      KeepsAllBut [.reg x, .reg 0xF#4] s t

/-- R179: V[Y] minus V[X] modulo 256, and VF = 1 exactly without borrow. -/
def Obligations.SubtractNegateSetsNoBorrow : Prop :=
  ∀ (x y : Nibble) (s : State),
    decode (0x8#4 ++ x ++ y ++ 0x7#4) = .subtractNegate x y ∧
    ∃ t, exec (.subtractNegate x y) s = .next t ∧
      (x ≠ 0xF#4 → ((t.reg x).toNat : Int) = ((((s.reg x).toNat : Int) - ((s.reg y).toNat : Int)) * -1) % 256) ∧
      (t.reg 0xF#4).toNat = (if (((s.reg x).toNat : Int) - ((s.reg y).toNat : Int)) * -1 ≥ 0 then 1 else 0) ∧
      KeepsAllBut [.reg x, .reg 0xF#4] s t

/-- R181: the value shifted is V[Y] with the quirk and V[X] without. -/
def Obligations.ShiftRightMovesBitOut : Prop :=
  ∀ (x y : Nibble) (s : State) (v : Byte), v = (if s.quirks.shiftVY then s.reg y else s.reg x) →
    decode (0x8#4 ++ x ++ y ++ 0x6#4) = .shiftRight x y ∧
    ∃ t, exec (.shiftRight x y) s = .next t ∧
      (x ≠ 0xF#4 → (t.reg x).toNat = v.toNat / 2) ∧ (t.reg 0xF#4).toNat = v.toNat % 2 ∧
      KeepsAllBut [.reg x, .reg 0xF#4] s t

/-- R182: the value shifted is V[Y] with the quirk and V[X] without. -/
def Obligations.ShiftLeftMovesBitOut : Prop :=
  ∀ (x y : Nibble) (s : State) (v : Byte), v = (if s.quirks.shiftVY then s.reg y else s.reg x) →
    decode (0x8#4 ++ x ++ y ++ 0xE#4) = .shiftLeft x y ∧
    ∃ t, exec (.shiftLeft x y) s = .next t ∧
      (x ≠ 0xF#4 → (t.reg x).toNat = v.toNat * 2 % 256) ∧ (t.reg 0xF#4).toNat = v.toNat / 128 ∧
      KeepsAllBut [.reg x, .reg 0xF#4] s t

/-- The next draw, whatever byte it is, masked by NN, so that every bit of the result is a bit of NN (41_alu R183;
60_exceptions R326). That the draw is `randByte` at the counter `randCount`, which moves on by 1, is the model's choice
(log entry 7). -/
def Obligations.RandomByteIsMasked : Prop :=
  ∀ (x : Nibble) (nn : Byte) (s : State),
    decode (0xC#4 ++ x ++ nn) = .generateRandomNumber x nn ∧
    ∃ t, exec (.generateRandomNumber x nn) s = .next t ∧
      (∀ b < 8, (t.reg x).getLsbD b = ((randByte s.randCount).getLsbD b && nn.getLsbD b)) ∧
      t.randCount = s.randCount + 1 ∧ KeepsAllBut [.reg x, .randCount] s t

/-! ### Control transfer and skips (40_control_flow) -/

/-- R141: PC becomes NNN, and nothing else changes. -/
def Obligations.JumpSetsPc : Prop :=
  ∀ (nnn : Addr) (s : State),
    decode (0x1#4 ++ nnn) = .jump nnn ∧
    ∃ t, exec (.jump nnn) s = .next t ∧ t.pc.toNat = nnn.toNat ∧ KeepsAllBut [.pc] s t

/-- R142: below the limit the PC after the call is pushed; at the limit only the fault record changes. -/
def Obligations.CallPushesReturnAddress : Prop :=
  ∀ (nnn : Addr) (s : State),
    decode (0x2#4 ++ nnn) = .callSubroutine nnn ∧
    (s.params.stackLimit ≠ some s.stack.length →
      ∃ t, exec (.callSubroutine nnn) s = .next t ∧ t.pc.toNat = nnn.toNat ∧ t.stack = s.stack ++ [s.pc] ∧
        KeepsAllBut [.pc, .stack] s t) ∧
    (s.params.stackLimit = some s.stack.length →
      exec (.callSubroutine nnn) s = .next { s with fault := some ⟨.stackOverflow, s.pc.toNat⟩ })

/-- R140: the popped value becomes PC as it is; on an empty stack only the fault record changes. -/
def Obligations.ReturnPopsPc : Prop :=
  ∀ s : State,
    decode 0x00EE#16 = .returnFromSubroutine ∧
    (∀ rest v, s.stack = rest ++ [v] →
      ∃ t, exec .returnFromSubroutine s = .next t ∧ t.pc = v ∧ t.stack = rest ∧ KeepsAllBut [.pc, .stack] s t) ∧
    (s.stack = [] →
      exec .returnFromSubroutine s = .next { s with fault := some ⟨.stackUnderflow, s.pc.toNat⟩ })

/-- A return from a state with the stack a call left resumes after the call, with the stack of before it (R140, R142,
R151). -/
def Obligations.ReturnUndoesCall : Prop :=
  ∀ (nnn : Addr) (s : State), s.params.stackLimit ≠ some s.stack.length →
    ∃ t, exec (.callSubroutine nnn) s = .next t ∧
      ∀ u : State, u.stack = t.stack →
        ∃ w, exec .returnFromSubroutine u = .next w ∧ w.pc = s.pc ∧ w.stack = s.stack

/-- R143, R144: PC moves by 2, modulo 2^16, where V[X] equals NN, or differs from it. -/
def Obligations.SkipOnByte : Prop :=
  ∀ (x : Nibble) (nn : Byte) (s : State),
    (decode (0x3#4 ++ x ++ nn) = .skipEqualVal x nn ∧
      ∃ t, exec (.skipEqualVal x nn) s = .next t ∧
        t.pc.toNat = (if s.reg x = nn then (s.pc.toNat + 2) % 65536 else s.pc.toNat) ∧ KeepsAllBut [.pc] s t) ∧
    (decode (0x4#4 ++ x ++ nn) = .skipNotEqualVal x nn ∧
      ∃ t, exec (.skipNotEqualVal x nn) s = .next t ∧
        t.pc.toNat = (if s.reg x ≠ nn then (s.pc.toNat + 2) % 65536 else s.pc.toNat) ∧ KeepsAllBut [.pc] s t)

/-- R145, R146: the last digit of the word is 0; with any other it is an unrecognized word. -/
def Obligations.SkipOnRegisters : Prop :=
  ∀ (x y : Nibble) (s : State),
    (∀ n : Nibble, n ≠ 0x0#4 →
      decode (0x5#4 ++ x ++ y ++ n) = .defaultOp (0x5#4 ++ x ++ y ++ n) ∧
      decode (0x9#4 ++ x ++ y ++ n) = .defaultOp (0x9#4 ++ x ++ y ++ n)) ∧
    (decode (0x5#4 ++ x ++ y ++ 0x0#4) = .skipEqualReg x y ∧
      ∃ t, exec (.skipEqualReg x y) s = .next t ∧
        t.pc.toNat = (if s.reg x = s.reg y then (s.pc.toNat + 2) % 65536 else s.pc.toNat) ∧ KeepsAllBut [.pc] s t) ∧
    (decode (0x9#4 ++ x ++ y ++ 0x0#4) = .skipNotEqualReg x y ∧
      ∃ t, exec (.skipNotEqualReg x y) s = .next t ∧
        t.pc.toNat = (if s.reg x ≠ s.reg y then (s.pc.toNat + 2) % 65536 else s.pc.toNat) ∧ KeepsAllBut [.pc] s t)

/-- R147: the address is the whole NNN, the register added is X with the quirk and V0 without. -/
def Obligations.JumpWithOffsetAddsRegister : Prop :=
  ∀ (nnn : Addr) (s : State),
    decode (0xB#4 ++ nnn) = .jumpWithOffset nnn (nnn.extractLsb' 8 4) ∧
    ∀ x : Nibble, ∃ t, exec (.jumpWithOffset nnn x) s = .next t ∧
      t.pc.toNat = nnn.toNat + (s.reg (if s.quirks.jumpVX then x else 0x0#4)).toNat ∧ KeepsAllBut [.pc] s t

/-! ### Index register and memory (42_index_memory) -/

/-- R210: I becomes NNN, and nothing else changes. -/
def Obligations.SetIndexLoadsAddress : Prop :=
  ∀ (nnn : Addr) (s : State),
    decode (0xA#4 ++ nnn) = .setIndex nnn ∧
    ∃ t, exec (.setIndex nnn) s = .next t ∧ t.i.toNat = nnn.toNat ∧ KeepsAllBut [.index] s t

/-- R211: I modulo 2^16; VF becomes 1 where the new I exceeds 0xFFF and keeps its value where it does not. -/
def Obligations.AddToIndexSetsOverflow : Prop :=
  ∀ (x : Nibble) (s : State),
    decode (0xF#4 ++ x ++ 0x1E#8) = .addToIndex x ∧
    ∃ t, exec (.addToIndex x) s = .next t ∧ t.i.toNat = (s.i.toNat + (s.reg x).toNat) % 65536 ∧
      t.reg 0xF#4 = (if t.i.toNat > 0xFFF then 1#8 else s.reg 0xF#4) ∧ KeepsAllBut [.index, .reg 0xF#4] s t

/-- R212, R214: only the low nibble of V[X] counts, and glyph d is at 0x050 + 5·d. -/
def Obligations.FontCharacterPointsAtGlyph : Prop :=
  ∀ (x : Nibble) (s : State),
    decode (0xF#4 ++ x ++ 0x29#8) = .fontCharacter x ∧
    ∃ t, exec (.fontCharacter x) s = .next t ∧ t.i.toNat = 0x050 + 5 * ((s.reg x).toNat % 16) ∧
      KeepsAllBut [.index] s t

/-- R213: the digits go to the three resolved addresses in ascending order, so the last one wins where two meet; with a
bad address nothing is written. -/
def Obligations.BcdStoresDigits : Prop :=
  ∀ (x : Nibble) (s : State),
    decode (0xF#4 ++ x ++ 0x33#8) = .bcdConvert x ∧
    (Reachable s s.i.toNat 3 →
      ∃ (a₀ a₁ a₂ : Nat) (t : State),
        resolve s.params.memOob s.i.toNat = .ok a₀ ∧ resolve s.params.memOob (s.i.toNat + 1) = .ok a₁ ∧
        resolve s.params.memOob (s.i.toNat + 2) = .ok a₂ ∧ exec (.bcdConvert x) s = .next t ∧
        (∀ a, (Memory.read t.mem a).toNat =
          if a = a₂ then (s.reg x).toNat % 10
          else if a = a₁ then (s.reg x).toNat / 10 % 10
          else if a = a₀ then (s.reg x).toNat / 100
          else (Memory.read s.mem a).toNat) ∧
        KeepsAllBut [.byte a₀, .byte a₁, .byte a₂] s t) ∧
    (s.params.memOob = .fault → 0xFFF < s.i.toNat + 2 →
      exec (.bcdConvert x) s = .next (s.afterBadAccess s.i.toNat))

/-- R216: V[k] goes to the resolved address of I + k in ascending k, so the last one wins where two meet; I moves by the
quirk; with a bad address nothing is written and I stays. -/
def Obligations.StoreRegistersWritesMemory : Prop :=
  ∀ (x : Nibble) (s : State),
    decode (0xF#4 ++ x ++ 0x55#8) = .storeRegisters x ∧
    (Reachable s s.i.toNat (x.toNat + 1) →
      ∃ (loc : Nat → Nat) (t : State),
        (∀ k ≤ x.toNat, resolve s.params.memOob (s.i.toNat + k) = .ok (loc k)) ∧
        exec (.storeRegisters x) s = .next t ∧
        (∀ k ≤ x.toNat, (∀ j ≤ x.toNat, k < j → loc j ≠ loc k) →
          Memory.read t.mem (loc k) = s.reg (BitVec.ofNat 4 k)) ∧
        t.i = (if s.quirks.incI then BitVec.ofNat 16 (s.i.toNat + x.toNat + 1) else s.i) ∧
        KeepsAllBut (.index :: (List.range (x.toNat + 1)).map fun k => .byte (loc k)) s t) ∧
    (s.params.memOob = .fault → 0xFFF < s.i.toNat + x.toNat →
      exec (.storeRegisters x) s = .next (s.afterBadAccess s.i.toNat))

/-- R217: V[k] comes from the resolved address of I + k; registers above X keep their values; I moves by the quirk; with
a bad address no register is loaded and I stays. -/
def Obligations.LoadRegistersReadsMemory : Prop :=
  ∀ (x : Nibble) (s : State),
    decode (0xF#4 ++ x ++ 0x65#8) = .loadRegisters x ∧
    (Reachable s s.i.toNat (x.toNat + 1) →
      ∃ (loc : Nat → Nat) (t : State),
        (∀ k ≤ x.toNat, resolve s.params.memOob (s.i.toNat + k) = .ok (loc k)) ∧
        exec (.loadRegisters x) s = .next t ∧
        (∀ k ≤ x.toNat, t.reg (BitVec.ofNat 4 k) = Memory.read s.mem (loc k)) ∧
        t.i = (if s.quirks.incI then BitVec.ofNat 16 (s.i.toNat + x.toNat + 1) else s.i) ∧
        KeepsAllBut (.index :: (List.range (x.toNat + 1)).map fun k => .reg (BitVec.ofNat 4 k)) s t) ∧
    (s.params.memOob = .fault → 0xFFF < s.i.toNat + x.toNat →
      exec (.loadRegisters x) s = .next (s.afterBadAccess s.i.toNat))

/-! ### Display (43_display) -/

/-- R240: no pixel is on, and nothing else changes. -/
def Obligations.ClearScreenTurnsPixelsOff : Prop :=
  ∀ s : State,
    decode 0x00E0#16 = .clearScreen ∧
    ∃ t, exec .clearScreen s = .next t ∧ (∀ c r, FrameBuffer.pixel t.fb c r = false) ∧ KeepsAllBut [.screen] s t

/-- R241, R243, R244: every pixel is exclusive-ored with the sprite's bit on it, which wraps on both axes, and VF is 1
exactly where a bit of 1 met a lit pixel; with a bad address nothing is drawn and VF stays. -/
def Obligations.DrawXorsSprite : Prop :=
  ∀ (x y n : Nibble) (s : State),
    decode (0xD#4 ++ x ++ y ++ n) = .draw x y n ∧
    (Reachable s s.i.toNat n.toNat →
      ∃ t, exec (.draw x y n) s = .next t ∧
        (∀ c r, FrameBuffer.pixel t.fb c r = (FrameBuffer.pixel s.fb c r ^^ spriteBit s x y n c r)) ∧
        ((∃ c r, FrameBuffer.pixel s.fb c r = true ∧ spriteBit s x y n c r = true) → t.reg 0xF#4 = 1#8) ∧
        ((∀ c r, FrameBuffer.pixel s.fb c r = true → spriteBit s x y n c r = false) → t.reg 0xF#4 = 0#8) ∧
        KeepsAllBut [.screen, .reg 0xF#4] s t) ∧
    (s.params.memOob = .fault → 1 ≤ n.toNat → 0xFFF < s.i.toNat + n.toNat - 1 →
      exec (.draw x y n) s = .next (s.afterBadAccess s.i.toNat))

/-- The same sprite drawn twice at the same place leaves the screen as it was, and the second draw collides exactly where
the first turned a pixel on (R241, R244). -/
def Obligations.DrawTwiceErases : Prop :=
  ∀ (x y n : Nibble) (s : State), x ≠ 0xF#4 → y ≠ 0xF#4 → Reachable s s.i.toNat n.toNat →
    ∃ t u, exec (.draw x y n) s = .next t ∧ exec (.draw x y n) t = .next u ∧
      (∀ c r, FrameBuffer.pixel u.fb c r = FrameBuffer.pixel s.fb c r) ∧
      (u.reg 0xF#4 = 1#8 ↔ ∃ c r, FrameBuffer.pixel s.fb c r = false ∧ FrameBuffer.pixel t.fb c r = true)

/-! ### Keypad and timers (44_input_timer) -/

/-- A code up to 15 asks the key; a code above takes the oracle's next answer, whatever it is (44_input_timer R260, R261,
R262). That the answer is `keyOracle` at the counter `keyCount`, which moves on by 1, is the model's choice (log entry 8). -/
def Obligations.KeySkipsFollowKeys : Prop :=
  ∀ (x : Nibble) (s : State),
    decode (0xE#4 ++ x ++ 0x9E#8) = .skipIfKeyPressed x ∧ decode (0xE#4 ++ x ++ 0xA1#8) = .skipIfKeyNotPressed x ∧
    (∀ down, s.keys[(s.reg x).toNat]? = some down →
      (∃ t, exec (.skipIfKeyPressed x) s = .next t ∧
        t.pc.toNat = (if down then (s.pc.toNat + 2) % 65536 else s.pc.toNat) ∧ KeepsAllBut [.pc] s t) ∧
      ∃ t, exec (.skipIfKeyNotPressed x) s = .next t ∧
        t.pc.toNat = (if down then s.pc.toNat else (s.pc.toNat + 2) % 65536) ∧ KeepsAllBut [.pc] s t) ∧
    (16 ≤ (s.reg x).toNat →
      (∃ t, exec (.skipIfKeyPressed x) s = .next t ∧
        t.pc.toNat = (if keyOracle s.keyCount then (s.pc.toNat + 2) % 65536 else s.pc.toNat) ∧
        t.keyCount = s.keyCount + 1 ∧ KeepsAllBut [.pc, .keyCount] s t) ∧
      ∃ t, exec (.skipIfKeyNotPressed x) s = .next t ∧
        t.pc.toNat = (if keyOracle s.keyCount then s.pc.toNat else (s.pc.toNat + 2) % 65536) ∧
        t.keyCount = s.keyCount + 1 ∧ KeepsAllBut [.pc, .keyCount] s t)

/-- R263, R264, R265: V[X] becomes DT, or DT or ST becomes V[X], and nothing else changes. -/
def Obligations.TimerRegisterTransfers : Prop :=
  ∀ (x : Nibble) (s : State),
    (decode (0xF#4 ++ x ++ 0x07#8) = .readDelayTimer x ∧
      ∃ t, exec (.readDelayTimer x) s = .next t ∧ t.reg x = s.dt ∧ KeepsAllBut [.reg x] s t) ∧
    (decode (0xF#4 ++ x ++ 0x15#8) = .writeDelayTimer x ∧
      ∃ t, exec (.writeDelayTimer x) s = .next t ∧ t.dt = s.reg x ∧ KeepsAllBut [.dt] s t) ∧
    (decode (0xF#4 ++ x ++ 0x18#8) = .writeSoundTimer x ∧
      ∃ t, exec (.writeSoundTimer x) s = .next t ∧ t.st = s.reg x ∧ KeepsAllBut [.st] s t)

/-- R266: with no fresh key PC goes back by 2, modulo 2^16; with one its code goes to V[X]; the latch is not consumed. -/
def Obligations.GetKeyRewindsOrReads : Prop :=
  ∀ (x : Nibble) (s : State),
    decode (0xF#4 ++ x ++ 0x0A#8) = .getKey x ∧
    (s.freshKey = none →
      ∃ t, exec (.getKey x) s = .next t ∧ (t.pc.toNat + 2) % 65536 = s.pc.toNat ∧ KeepsAllBut [.pc] s t) ∧
    ∀ k, s.freshKey = some k →
      ∃ t, exec (.getKey x) s = .next t ∧ (t.reg x).toNat = k.toNat ∧ KeepsAllBut [.reg x] s t

/-! ### Unrecognized words (45_default_op) -/

/-- R290, R291: one record with the word and its address `a`, where PC holds `a + 2`, and no other change. -/
def Obligations.DefaultOpOnlyLogs : Prop :=
  ∀ (w : Word) (s : State),
    (recognized w = false → decode w = .defaultOp w) ∧
    ∀ a : Word, s.pc = a + 2#16 →
      ∃ t, exec (.defaultOp w) s = .next t ∧
        t.diagLog = s.diagLog ++ [.unimplementedInstruction w a] ∧ KeepsAllBut [.log] s t

/-! ### Host events (60_exceptions, 70_reset_and_hazards) -/

/-- The frame: both timers fall by one, staying at 0, and the latch is consumed; nothing else changes (R310, R311). That the
script brings the event is the model's choice (log entry 9). -/
def Obligations.FrameCountsDown : Prop :=
  ∀ (s : State) (rest : List HostEvent), s.script = .frame :: rest →
    ∃ t, step s = .next t ∧ t.dt.toNat = s.dt.toNat - 1 ∧ t.st.toNat = s.st.toNat - 1 ∧
      t = { s with dt := t.dt, st := t.st, freshKey := none, script := rest }

/-- R324: a key-down sets its key and latches nothing; a key-up clears its key and replaces the latch; nothing else
changes. -/
def Obligations.KeyEventsSetKeysAndLatch : Prop :=
  ∀ (s : State) (k : Nibble),
    (∃ t, runEvent (.keyDown k) s = .next t ∧ (∀ j : Fin 16, t.keys[j] = if j.val = k.toNat then true else s.keys[j]) ∧
      t = { s with keys := t.keys }) ∧
    ∃ t, runEvent (.keyUp k) s = .next t ∧ (∀ j : Fin 16, t.keys[j] = if j.val = k.toNat then false else s.keys[j]) ∧
      t = { s with keys := t.keys, freshKey := some k }

/-- A quirk write changes the quirks alone, `setDelay` DT alone, `setSound` ST alone, a MemoryIO write its byte alone
(10_state R44, R46; 20_memory R83). That the host's timer writes are events is log entry 21, that the script brings the event is the model's choice (log entry 9). -/
def Obligations.HostWritesChangeOneThing : Prop :=
  ∀ (s : State) (rest : List HostEvent),
    (∀ q, s.script = .writeQuirks q :: rest → step s = .next { s with quirks := q, script := rest }) ∧
    (∀ b, s.script = .setDelay b :: rest → step s = .next { s with dt := b, script := rest }) ∧
    (∀ b, s.script = .setSound b :: rest → step s = .next { s with st := b, script := rest }) ∧
    ∀ (a : Addr) (b : Byte), s.script = .memWrite a b :: rest →
      ∃ t, step s = .next t ∧
        (∀ k, Memory.read t.mem k = if k = a.toNat then b else Memory.read s.mem k) ∧
        t = { s with mem := t.mem, script := rest }

/-- R350: what `init()` writes, and that it writes nothing else. -/
def Obligations.InitWritesCoreRegisters : Prop :=
  ∀ s : State,
    (∀ k, s.init.reg k = 0#8) ∧ s.init.dt = 0#8 ∧ s.init.st = 0#8 ∧ s.init.stack = [] ∧ s.init.pc = 0x200#16 ∧
    s.init.i = 0#16 ∧ s.init.run = .running ∧
    (∀ a, Memory.read s.init.mem a = Memory.read s.mem a) ∧
    (∀ c r, FrameBuffer.pixel s.init.fb c r = FrameBuffer.pixel s.fb c r) ∧ s.init.keys = s.keys ∧
    s.init.freshKey = s.freshKey ∧ s.init.quirks = s.quirks ∧ s.init.fault = s.fault ∧ s.init.diagLog = s.diagLog ∧
    s.init.params = s.params

/-- The only transition of the run state is idle to running, made by the host's `init()`, which answers in an idle core
with the registers as R350 leaves them and is refused in a running core (10_state R47; 70_reset_and_hazards R350; 60_exceptions R338). That the script brings the call is the model's choice (log entry 9). -/
def Obligations.OnlyInitStartsTheCore : Prop :=
  (∀ s t : State, step s = .next t → s.run = .running → t.run = .running) ∧
    (∀ s t : State, step s = .next t → s.run = .idle → t.run = .running →
      ∃ rest, s.script = .init :: rest ∧ t = { s.init with script := rest }) ∧
    (∀ (s : State) (rest : List HostEvent), s.script = .init :: rest → s.run = .idle →
      step s = .next { s.init with script := rest }) ∧
    ∀ (s : State) (rest : List HostEvent), s.script = .init :: rest → s.run = .running →
      step s = .refused .initWhileRunning

/-- A recorded fault is final: no step clears it, and while it stands in a running core no step changes a register, I,
PC, the stack, the screen or the log (10_state R48; 60_exceptions R301). -/
def Obligations.FaultIsFinal : Prop :=
  ∀ (s t : State) (r : FaultRecord), s.fault = some r → step s = .next t →
    t.fault = some r ∧
    (s.run = .running →
      t.v = s.v ∧ t.i = s.i ∧ t.pc = s.pc ∧ t.stack = s.stack ∧ t.fb = s.fb ∧ t.diagLog = s.diagLog)

/-- R353: the launch state, for every value of the parameters within R8's bounds and every ROM that fits. -/
def Obligations.LaunchState : Prop :=
  ∀ (p : LaunchParams) (rom : List Byte), rom.length ≤ 3584 →
    ∃ t, launch p rom = some t ∧
      (∀ k, t.reg k = 0#8) ∧ t.i = 0#16 ∧ t.dt = 0#8 ∧ t.st = 0#8 ∧ t.pc = 0x200#16 ∧ t.stack = [] ∧
      t.quirks = p.quirks ∧ t.params = p.params ∧
      (∀ k (h : k < 80), Memory.read t.mem (0x050 + k) = p.font[k]) ∧
      (∀ k (h : k < rom.length), Memory.read t.mem (0x200 + k) = rom[k]) ∧
      (∀ a < 4096, ¬ (0x050 ≤ a ∧ a < 0x0A0) → ¬ (0x200 ≤ a ∧ a < 0x200 + rom.length) →
        Memory.read t.mem a = p.rest a) ∧
      t.fb = p.fb ∧ t.keys = p.keys ∧ t.freshKey = none ∧ t.run = .running ∧ t.fault = none ∧ t.diagLog = []

/-- A ROM over 3584 bytes is rejected (R354), and the state after reset is the launch without a ROM on the default
parameters: the spec's defaults, and the model's choices of log entries 2, 3, 5 and 6. -/
def Obligations.ResetIsDefaultLaunch : Prop :=
  launch LaunchParams.default [] = some State.reset ∧
    ∀ (p : LaunchParams) (rom : List Byte), 3584 < rom.length → launch p rom = none

/-! ### The whole machine -/

/-- The reset state meets the invariant. -/
def Obligations.ResetMeetsInv : Prop := State.reset.Inv

/-- Every launch state meets the invariant (R353, R354). -/
def Obligations.LaunchMeetsInv : Prop :=
  ∀ (p : LaunchParams) (rom : List Byte) (t : State), launch p rom = some t → t.Inv

/-- Every step keeps the invariant: memory stays canonical, a stack limit at least 1 (00_scope R8) and the stack within it
(10_state R40, R41), and a recorded fault says what happened (60_exceptions R300, R301). -/
def Obligations.StepKeepsInv : Prop := ∀ s t : State, s.Inv → step s = .next t → t.Inv

/-- Every instruction writes only the places the spec names as its own, of memory only the resolved addresses it stores to
and none where one cannot be resolved, and nothing of the host's side (10_state R32,
R38, R39, R44, R45, R51–R54; 20_memory R70; 60_exceptions R300). -/
def Obligations.EveryInstructionKeepsItsFrame : Prop :=
  ∀ (i : Instr) (s t : State), exec i s = .next t →
    SameHostSide s t ∧ ∀ p : Place, mayWrite s i p = false → p.same s t

/-- No tick decrements a timer: DT changes only by FX15 and ST only by FX18, each to the register's value (10_state R44;
60_exceptions R310). -/
def Obligations.TicksLeaveTimers : Prop :=
  ∀ s t : State, tick s = .next t →
    (t.dt = s.dt ∨ ∃ w x, s.fetch = .ok (w, s.advance) ∧ decode w = .writeDelayTimer x ∧ t.dt = s.reg x) ∧
    (t.st = s.st ∨ ∃ w x, s.fetch = .ok (w, s.advance) ∧ decode w = .writeSoundTimer x ∧ t.st = s.reg x)

/-- Nothing in the core reads the diagnostic log or the sound counter: ticks of two states that differ only in them leave
states that differ only in them (10_state R44, R54; 45_default_op R291). -/
def Obligations.NothingReadsLogOrSound : Prop :=
  ∀ (s t : State) (log : List DiagRecord) (sound : Byte), tick s = .next t →
    ∃ t', tick { s with diagLog := log, st := sound } = .next t' ∧
      { t' with diagLog := t.diagLog, st := t.st } = t

/-- Only the five gated instructions read the quirks (10_state R45). -/
def Obligations.OnlyGatedInstructionsReadQuirks : Prop :=
  ∀ (i : Instr) (s t : State) (q : Quirks), quirkGated i = false → exec i s = .next t →
    exec i { s with quirks := q } = .next { t with quirks := q }

/-- One turn of the reference schedule as a script is `quantum`: where its ticks and its frame all answer, the run ends in
the state of `IPF` ticks and one frame (60_exceptions R331; the script is the model's own, log entry 9). -/
def Obligations.ScriptRunsReferenceQuantum : Prop :=
  ∀ (ipf : Ipf) (s t : State), s.script = [] →
    Sys2Proof.core.run (ipf.val + 1) { s with script := referenceScript ipf 1 } = .next t → t = quantum ipf s
end

