-- ==== Sys2Proof/Laws/Decode.lean ====
section
/-! SUPPORT. The fields of an encoded word, format by format (30_encoding R102, R104), and a word's two bytes. -/
namespace Sys2Proof

@[simp] theorem fieldOp_encodeXY (op x y fn : Nibble) : fieldOp (encodeXY op x y fn) = op := by
  simp only [fieldOp, encodeXY, BitVec.extractLsb'_append_eq_ite]; simp
@[simp] theorem fieldX_encodeXY (op x y fn : Nibble) : fieldX (encodeXY op x y fn) = x := by
  simp only [fieldX, encodeXY, BitVec.extractLsb'_append_eq_ite]; simp
@[simp] theorem fieldY_encodeXY (op x y fn : Nibble) : fieldY (encodeXY op x y fn) = y := by
  simp only [fieldY, encodeXY, BitVec.extractLsb'_append_eq_ite]; simp
@[simp] theorem fieldN_encodeXY (op x y fn : Nibble) : fieldN (encodeXY op x y fn) = fn := by
  simp only [fieldN, encodeXY, BitVec.extractLsb'_append_eq_ite]; simp
@[simp] theorem fieldOp_encodeXNN (op x : Nibble) (nn : Byte) : fieldOp (encodeXNN op x nn) = op := by
  simp only [fieldOp, encodeXNN, BitVec.extractLsb'_append_eq_ite]; simp
@[simp] theorem fieldX_encodeXNN (op x : Nibble) (nn : Byte) : fieldX (encodeXNN op x nn) = x := by
  simp only [fieldX, encodeXNN, BitVec.extractLsb'_append_eq_ite]; simp
@[simp] theorem fieldNN_encodeXNN (op x : Nibble) (nn : Byte) : fieldNN (encodeXNN op x nn) = nn := by
  simp only [fieldNN, encodeXNN, BitVec.extractLsb'_append_eq_ite]; simp
@[simp] theorem fieldOp_encodeNNN (op : Nibble) (nnn : Addr) : fieldOp (encodeNNN op nnn) = op := by
  simp only [fieldOp, encodeNNN, BitVec.extractLsb'_append_eq_ite]; simp
@[simp] theorem fieldNNN_encodeNNN (op : Nibble) (nnn : Addr) : fieldNNN (encodeNNN op nnn) = nnn := by
  simp only [fieldNNN, encodeNNN, BitVec.extractLsb'_append_eq_ite]; simp
@[simp] theorem fieldX_encodeNNN (op : Nibble) (nnn : Addr) : fieldX (encodeNNN op nnn) = nnn.extractLsb' 8 4 := by
  simp only [fieldX, encodeNNN, BitVec.extractLsb'_append_eq_ite]; simp

/-- The word of two bytes as a number: the first byte is the high one (R71). -/
theorem wordOfBytes_toNat (hi lo : Byte) : (wordOfBytes hi lo).toNat = hi.toNat * 256 + lo.toNat := by
  simp only [wordOfBytes, BitVec.toNat_append]
  rw [← Nat.shiftLeft_add_eq_or_of_lt lo.isLt, Nat.shiftLeft_eq]

/-- The two bytes of a word make the word (20_memory R71). -/
@[simp] theorem wordOfBytes_hi_lo (w : Word) : wordOfBytes (wordHi w) (wordLo w) = w := by
  apply BitVec.eq_of_toNat_eq
  rw [wordOfBytes_toNat]
  have := w.isLt
  simp only [wordHi, wordLo, BitVec.extractLsb'_toNat, Nat.shiftRight_eq_div_pow]
  omega

/-- Every two bytes decode, and the bytes after them are left (30_encoding R100, R109). -/
theorem decodeBytes_cons (hi lo : Byte) (rest : List Byte) :
    decodeBytes (hi :: lo :: rest) = .ok (decode (wordOfBytes hi lo), rest) := rfl

/-- A 16-bit row's word goes through the decoder as it is. -/
theorem decodeTableWord_word (w : Word) : decodeTableWord 16 w.toNat = some (decode w) := by
  have h : BitVec.ofNat 16 (w.toNat % 2 ^ 16) = w := by
    apply BitVec.eq_of_toNat_eq
    simp [Nat.mod_eq_of_lt w.isLt]
  simp only [decodeTableWord, h, decodeBytes_cons, wordOfBytes_hi_lo]

/-- The bits of a format-`F_XYn` word under the row's mask. -/
theorem encodeXY_mask (op x y fn : Nibble) : encodeXY op x y fn &&& 0xF00F#16 = encodeXY op 0#4 0#4 fn := by
  have h : (0xF00F#16 : Word) = ((0xF#4 ++ 0#4 : BitVec 8) ++ 0#4 : BitVec 12) ++ 0xF#4 := by decide
  have one : ∀ b : Nibble, b &&& 0xF#4 = b := by decide
  rw [h, encodeXY, encodeXY, BitVec.and_append, BitVec.and_append, BitVec.and_append]
  simp [one]

/-- The bits of a word of four nibbles under the mask of the high one. -/
theorem encodeXY_high_mask (op x y fn : Nibble) : encodeXY op x y fn &&& 0xF000#16 = encodeXY op 0#4 0#4 0#4 := by
  have h : (0xF000#16 : Word) = ((0xF#4 ++ 0#4 : BitVec 8) ++ 0#4 : BitVec 12) ++ 0#4 := by decide
  have one : ∀ b : Nibble, b &&& 0xF#4 = b := by decide
  rw [h, encodeXY, encodeXY, BitVec.and_append, BitVec.and_append, BitVec.and_append]
  simp [one]

/-- The bits of a word of `op`, X and a byte under the mask of the high nibble. -/
theorem encodeXNN_mask (op x : Nibble) (nn : Byte) : encodeXNN op x nn &&& 0xF000#16 = encodeXNN op 0#4 0#8 := by
  have h : (0xF000#16 : Word) = (0xF#4 ++ 0#4 : BitVec 8) ++ 0#8 := by decide
  have one : ∀ b : Nibble, b &&& 0xF#4 = b := by decide
  rw [h, encodeXNN, encodeXNN, BitVec.and_append, BitVec.and_append]
  simp [one]

/-- The bits of a word of `op`, X and a function byte under the mask of the high nibble and the byte. -/
theorem encodeXnn_mask (op x : Nibble) (fn : Byte) : encodeXNN op x fn &&& 0xF0FF#16 = encodeXNN op 0#4 fn := by
  have h : (0xF0FF#16 : Word) = (0xF#4 ++ 0#4 : BitVec 8) ++ 0xFF#8 := by decide
  have one : ∀ b : Nibble, b &&& 0xF#4 = b := by decide
  have one' : ∀ b : Byte, b &&& 0xFF#8 = b := by decide
  rw [h, encodeXNN, encodeXNN, BitVec.and_append, BitVec.and_append]
  simp [one, one']

/-- The bits of a format-`F_NNN` word under the mask of the high nibble. -/
theorem encodeNNN_mask (op : Nibble) (nnn : Addr) : encodeNNN op nnn &&& 0xF000#16 = encodeNNN op 0#12 := by
  have h : (0xF000#16 : Word) = 0xF#4 ++ 0#12 := by decide
  have one : ∀ b : Nibble, b &&& 0xF#4 = b := by decide
  rw [h, encodeNNN, encodeNNN, BitVec.and_append]
  simp [one]

end Sys2Proof
end

