-- ==== Sys2Proof/Laws/Memory.lean ====
section
/-! SUPPORT. Memory: the canonical form is kept by every operation, a read after a write, and what resolving an address answers. -/
namespace Sys2Proof.Machine

open Sys2Proof.Config

/-- The addresses of a memory rise strictly. -/
abbrev Memory.Rising (m : Memory) : Prop := m.Pairwise fun c d => c.1 < d.1

/-- A cell the canonical form admits. -/
abbrev Memory.GoodCell (c : Host.Cell) : Prop := c.1 < memSize ∧ c.2 ≠ Memory.initial c.1

theorem Memory.wf_iff (m : Memory) : Memory.wf m = true ↔ Memory.Rising m ∧ ∀ c ∈ m, Memory.GoodCell c := by
  simp [Memory.wf]

theorem Memory.wf_nil : Memory.wf [] = true := by simp [Memory.wf_iff]

/-- Reading where no cell stands gives what an unlisted address reads as. -/
theorem Memory.read_absent (m : Memory) (a : Nat) (h : ∀ c ∈ m, c.1 ≠ a) : Memory.read m a = Memory.initial a := by
  induction m with
  | nil => rfl
  | cons c m ih =>
    obtain ⟨k, b⟩ := c
    have hk : k ≠ a := h (k, b) (by simp)
    simp only [Memory.read, hk, if_false]
    exact ih fun c hc => h c (by simp [hc])

theorem Memory.read_cell_append (m : Memory) (a : Nat) (b : Byte) (h : ∀ c ∈ m, c.1 ≠ a) :
    Memory.read (Memory.cell a b ++ m) a = b := by
  unfold Memory.cell
  split
  · rename_i e
    simp [Memory.read_absent m a h, e]
  · simp [Memory.read]

theorem Memory.read_cell_append_ne (m : Memory) {a k : Nat} (b : Byte) (h : k ≠ a) :
    Memory.read (Memory.cell a b ++ m) k = Memory.read m k := by
  unfold Memory.cell
  split
  · rfl
  · simp [Memory.read, Ne.symm h]

theorem Memory.read_insertAt (m : Memory) (a : Nat) (b : Byte) (h : ∀ c ∈ m, c.1 ≠ a) (k : Nat) :
    Memory.read (Memory.insertAt a (Memory.cell a b) m) k = if k = a then b else Memory.read m k := by
  induction m with
  | nil =>
    have e : Memory.insertAt a (Memory.cell a b) [] = Memory.cell a b ++ [] := by simp [Memory.insertAt]
    rw [e]
    split
    · rename_i hk; subst hk; exact Memory.read_cell_append [] k b (by simp)
    · rename_i hk; exact Memory.read_cell_append_ne [] b hk
  | cons c m ih =>
    obtain ⟨j, d⟩ := c
    have hj : j ≠ a := h (j, d) (by simp)
    have hm : ∀ c ∈ m, c.1 ≠ a := fun c hc => h c (by simp [hc])
    unfold Memory.insertAt
    split
    · simp only [Memory.read, ih hm]
      by_cases hk : k = a
      · subst hk; simp [hj]
      · simp [hk]
    · by_cases hk : k = a
      · subst hk; simp only [if_true]; exact Memory.read_cell_append _ k b h
      · simp only [hk, if_false]; exact Memory.read_cell_append_ne _ b hk

theorem Memory.read_filter_ne (m : Memory) {a k : Nat} (h : k ≠ a) :
    Memory.read (m.filter fun c => c.1 != a) k = Memory.read m k := by
  induction m with
  | nil => rfl
  | cons c m ih =>
    obtain ⟨j, d⟩ := c
    by_cases hj : j = a
    · subst hj
      simp [Memory.read, Ne.symm h, ih]
    · simp [hj, Memory.read, ih]

/-- A read after a write: the byte written at its address, the old byte everywhere else (20_memory R79). It holds of
every memory, canonical or not. -/
theorem Memory.read_write (m : Memory) (a : Nat) (b : Byte) (k : Nat) :
    Memory.read (Memory.write m a b) k = if k = a then b else Memory.read m k := by
  unfold Memory.write
  rw [Memory.read_insertAt _ a b (by simp)]
  split
  · rfl
  · rename_i h; exact Memory.read_filter_ne m h

theorem Memory.mem_insertAt (a : Nat) (new m : Memory) (c : Host.Cell) :
    c ∈ Memory.insertAt a new m ↔ c ∈ new ∨ c ∈ m := by
  induction m with
  | nil => simp [Memory.insertAt]
  | cons d m ih =>
    unfold Memory.insertAt
    split
    · simp [ih]; tauto
    · simp

theorem Memory.mem_cell {a : Nat} {b : Byte} {c : Host.Cell} (h : c ∈ Memory.cell a b) :
    c = (a, b) ∧ b ≠ Memory.initial a := by
  unfold Memory.cell at h
  split at h
  · simp at h
  · rename_i e; exact ⟨by simpa using h, e⟩

theorem Memory.rising_insertAt (m : Memory) (a : Nat) (b : Byte) (hm : Memory.Rising m) (h : ∀ c ∈ m, c.1 ≠ a) :
    Memory.Rising (Memory.insertAt a (Memory.cell a b) m) := by
  induction m with
  | nil => simp only [Memory.insertAt]; unfold Memory.cell; split <;> simp
  | cons d m ih =>
    obtain ⟨j, e⟩ := d
    have hj : j ≠ a := h (j, e) (by simp)
    obtain ⟨hd, hr⟩ := List.pairwise_cons.1 hm
    unfold Memory.insertAt
    split
    · rename_i hlt
      refine List.pairwise_cons.2 ⟨fun c hc => ?_, ih hr fun c hc => h c (by simp [hc])⟩
      rcases (Memory.mem_insertAt _ _ _ _).1 hc with hc | hc
      · rw [(Memory.mem_cell hc).1]; exact hlt
      · exact hd c hc
    · rename_i hge
      unfold Memory.cell
      split
      · exact hm
      · refine List.pairwise_cons.2 ⟨fun c hc => ?_, hm⟩
        rcases List.mem_cons.1 hc with hc | hc
        · subst hc; simp only; omega
        · have := hd c hc; simp only at this ⊢; omega

/-- A write keeps the canonical form. -/
theorem Memory.wf_write {m : Memory} (h : Memory.wf m = true) {a : Nat} (ha : a < memSize) (b : Byte) :
    Memory.wf (Memory.write m a b) = true := by
  rw [Memory.wf_iff] at h ⊢
  obtain ⟨hr, hg⟩ := h
  refine ⟨Memory.rising_insertAt _ a b (hr.filter _) (by simp), fun c hc => ?_⟩
  rcases (Memory.mem_insertAt _ _ _ _).1 hc with hc | hc
  · obtain ⟨rfl, hb⟩ := Memory.mem_cell hc
    exact ⟨ha, hb⟩
  · exact hg c (List.mem_filter.1 hc).1

/-- Writing bytes one by one keeps the canonical form. -/
theorem Memory.wf_writeCells {m : Memory} (h : Memory.wf m = true) (cs : List (Nat × Byte))
    (ha : ∀ c ∈ cs, c.1 < memSize) : Memory.wf (Memory.writeCells m cs) = true := by
  induction cs generalizing m with
  | nil => exact h
  | cons c cs ih =>
    exact ih (Memory.wf_write h (ha c (by simp)) c.2) fun d hd => ha d (by simp [hd])

/-- Loading bytes below the top of memory keeps the canonical form. -/
theorem Memory.wf_load {m : Memory} (h : Memory.wf m = true) (base : Nat) (bs : List Byte)
    (ha : base + bs.length ≤ memSize) : Memory.wf (Memory.load m base bs) = true := by
  induction bs generalizing m base with
  | nil => exact h
  | cons b bs ih =>
    simp only [List.length_cons] at ha
    exact ih (Memory.wf_write h (by omega) b) (base + 1) (by omega)

/-- The image's cells are below `n`. -/
theorem Memory.ofImage_lt (f : Nat → Byte) (n : Nat) : ∀ c ∈ Memory.ofImage f n, c.1 < n ∧ c.2 ≠ Memory.initial c.1 := by
  induction n with
  | zero => simp [Memory.ofImage]
  | succ n ih =>
    intro c hc
    rcases List.mem_append.1 hc with hc | hc
    · have := ih c hc; exact ⟨by omega, this.2⟩
    · obtain ⟨rfl, hb⟩ := Memory.mem_cell hc
      exact ⟨by simp, hb⟩

/-- An image of at most the whole space is in canonical form. -/
theorem Memory.wf_ofImage (f : Nat → Byte) (n : Nat) (hn : n ≤ memSize) : Memory.wf (Memory.ofImage f n) = true := by
  rw [Memory.wf_iff]
  refine ⟨?_, fun c hc => ⟨by have := (Memory.ofImage_lt f n c hc).1; omega, (Memory.ofImage_lt f n c hc).2⟩⟩
  clear hn
  induction n with
  | zero => exact List.Pairwise.nil
  | succ n ih =>
    refine List.pairwise_append.2 ⟨ih, ?_, fun c hc d hd => ?_⟩
    · unfold Memory.cell; split <;> simp
    · rw [(Memory.mem_cell hd).1]; exact (Memory.ofImage_lt f n c hc).1

/-- A read of an image. -/
theorem Memory.read_ofImage (f : Nat → Byte) (n a : Nat) (ha : a < n) : Memory.read (Memory.ofImage f n) a = f a := by
  have key : ∀ (m m' : Memory) (k : Nat), (∀ c ∈ m, c.1 ≠ k) → Memory.read (m ++ m') k = Memory.read m' k := by
    intro m m' k h
    induction m with
    | nil => rfl
    | cons c m ih =>
      obtain ⟨j, b⟩ := c
      have hj : j ≠ k := h (j, b) (by simp)
      simp only [List.cons_append, Memory.read, hj, if_false]
      exact ih fun c hc => h c (by simp [hc])
  have key' : ∀ (m : Memory) (k j : Nat) (b : Byte), k ≠ j →
      Memory.read (m ++ Memory.cell j b) k = Memory.read m k := by
    intro m k j b h
    induction m with
    | nil => simpa [Memory.read] using Memory.read_cell_append_ne [] b h
    | cons c m ih => obtain ⟨i, d⟩ := c; simp only [List.cons_append, Memory.read, ih]
  induction n with
  | zero => omega
  | succ n ih =>
    unfold Memory.ofImage
    by_cases h : a = n
    · subst h
      rw [key _ _ _ fun c hc => by have := (Memory.ofImage_lt f a c hc).1; omega]
      simpa using Memory.read_cell_append [] a (f a) (by simp)
    · rw [key' _ _ _ _ h]; exact ih (by omega)

/-- A resolved address exists (20_memory R74). -/
theorem resolve_lt {o : MemOob} {a r : Nat} (h : resolve o a = .ok r) : r < memSize := by
  unfold resolve at h
  split at h
  · cases h; unfold memSize; omega
  · cases o
    · cases h; exact Nat.mod_lt _ (by decide)
    · cases h; decide
    · cases h

/-- An address that exists is its own resolution (R74). -/
theorem resolve_low (o : MemOob) {a : Nat} (h : a ≤ 0xFFF) : resolve o a = .ok a := by simp [resolve, h]

/-- Only `Fault` refuses an address, and then one above 0xFFF, which it names (R74). -/
theorem resolve_error {o : MemOob} {a b : Nat} (h : resolve o a = .error b) : o = .fault ∧ b = a ∧ 0xFFF < a := by
  unfold resolve at h
  split at h
  · cases h
  · cases o
    · cases h
    · cases h
    · cases h; exact ⟨rfl, rfl, by omega⟩

/-- A range that resolves: one address each, in order (R75). -/
theorem resolveFrom_ok {o : MemOob} {base n : Nat} {rs : List Nat} (h : resolveFrom o base n = .ok rs) :
    rs.length = n ∧ ∀ k (hk : k < rs.length), resolve o (base + k) = .ok rs[k] := by
  induction n generalizing base rs with
  | zero => unfold resolveFrom at h; cases h; simp
  | succ n ih =>
    unfold resolveFrom at h
    split at h
    · cases h
    · rename_i r hr
      split at h
      · cases h
      · rename_i rs' hrs
        cases h
        obtain ⟨hl, hk⟩ := ih hrs
        refine ⟨by simp [hl], fun k hkl => ?_⟩
        cases k with
        | zero => simpa using hr
        | succ k =>
          have := hk k (by simpa using hkl)
          simpa [Nat.add_assoc, Nat.add_comm 1 k] using this

/-- A range that does not resolve: `MEM_OOB` is `Fault`, the range passes 0xFFF, and the error is the lowest address
above it (R75). -/
theorem resolveFrom_error {o : MemOob} {base n b : Nat} (h : resolveFrom o base n = .error b) :
    o = .fault ∧ 0x1000 < base + n ∧ b = max base 0x1000 := by
  induction n generalizing base with
  | zero => unfold resolveFrom at h; cases h
  | succ n ih =>
    unfold resolveFrom at h
    split at h
    · rename_i a ha
      cases h
      obtain ⟨ho, rfl, hb⟩ := resolve_error ha
      exact ⟨ho, by omega, by omega⟩
    · rename_i r hr
      split at h
      · rename_i a ha
        cases h
        obtain ⟨ho, hb, hm⟩ := ih ha
        subst ho
        have : base ≤ 0xFFF := by
          unfold resolve at hr
          split at hr
          · assumption
          · cases hr
        exact ⟨rfl, by omega, by omega⟩
      · cases h

/-- A range resolves where no address of it is refused. -/
theorem resolveFrom_total {o : MemOob} {base n : Nat} (h : o = .fault → n = 0 ∨ base + n ≤ 0x1000) :
    ∃ rs, resolveFrom o base n = .ok rs := by
  cases hr : resolveFrom o base n with
  | ok rs => exact ⟨rs, rfl⟩
  | error b =>
    obtain ⟨ho, hb, -⟩ := resolveFrom_error hr
    rcases h ho with hn | hn
    · subst hn; unfold resolveFrom at hr; cases hr
    · omega

/-- Every resolved address of a range exists. -/
theorem resolveFrom_lt {o : MemOob} {base n : Nat} {rs : List Nat} (h : resolveFrom o base n = .ok rs) :
    ∀ r ∈ rs, r < memSize := by
  intro r hr
  obtain ⟨k, hk, rfl⟩ := List.getElem_of_mem hr
  exact resolve_lt ((resolveFrom_ok h).2 k hk)

end Sys2Proof.Machine
end

