-- ==== Sys2Proof/Laws/State.lean ====
section
/-! SUPPORT. One lemma per field per update of State, each true by unfolding, so that no later proof unfolds a record update. -/
namespace Sys2Proof.Machine

@[simp] theorem State.setReg_v (s : State) (x : Nibble) (b : Byte) : (s.setReg x b).v = s.v.set x.toNat b x.isLt := rfl
@[simp] theorem State.setReg_i (s : State) (x : Nibble) (b : Byte) : (s.setReg x b).i = s.i := rfl
@[simp] theorem State.setReg_pc (s : State) (x : Nibble) (b : Byte) : (s.setReg x b).pc = s.pc := rfl
@[simp] theorem State.setReg_stack (s : State) (x : Nibble) (b : Byte) : (s.setReg x b).stack = s.stack := rfl
@[simp] theorem State.setReg_dt (s : State) (x : Nibble) (b : Byte) : (s.setReg x b).dt = s.dt := rfl
@[simp] theorem State.setReg_st (s : State) (x : Nibble) (b : Byte) : (s.setReg x b).st = s.st := rfl
@[simp] theorem State.setReg_quirks (s : State) (x : Nibble) (b : Byte) : (s.setReg x b).quirks = s.quirks := rfl
@[simp] theorem State.setReg_mem (s : State) (x : Nibble) (b : Byte) : (s.setReg x b).mem = s.mem := rfl
@[simp] theorem State.setReg_fb (s : State) (x : Nibble) (b : Byte) : (s.setReg x b).fb = s.fb := rfl
@[simp] theorem State.setReg_keys (s : State) (x : Nibble) (b : Byte) : (s.setReg x b).keys = s.keys := rfl
@[simp] theorem State.setReg_freshKey (s : State) (x : Nibble) (b : Byte) : (s.setReg x b).freshKey = s.freshKey := rfl
@[simp] theorem State.setReg_run (s : State) (x : Nibble) (b : Byte) : (s.setReg x b).run = s.run := rfl
@[simp] theorem State.setReg_fault (s : State) (x : Nibble) (b : Byte) : (s.setReg x b).fault = s.fault := rfl
@[simp] theorem State.setReg_diagLog (s : State) (x : Nibble) (b : Byte) : (s.setReg x b).diagLog = s.diagLog := rfl
@[simp] theorem State.setReg_params (s : State) (x : Nibble) (b : Byte) : (s.setReg x b).params = s.params := rfl
@[simp] theorem State.setReg_randCount (s : State) (x : Nibble) (b : Byte) : (s.setReg x b).randCount = s.randCount := rfl
@[simp] theorem State.setReg_keyCount (s : State) (x : Nibble) (b : Byte) : (s.setReg x b).keyCount = s.keyCount := rfl
@[simp] theorem State.setReg_script (s : State) (x : Nibble) (b : Byte) : (s.setReg x b).script = s.script := rfl

@[simp] theorem State.setVF_v (s : State) (b : Byte) : (s.setVF b).v = s.v.set 15 b (by decide) := rfl
@[simp] theorem State.setVF_i (s : State) (b : Byte) : (s.setVF b).i = s.i := rfl
@[simp] theorem State.setVF_pc (s : State) (b : Byte) : (s.setVF b).pc = s.pc := rfl
@[simp] theorem State.setVF_stack (s : State) (b : Byte) : (s.setVF b).stack = s.stack := rfl
@[simp] theorem State.setVF_dt (s : State) (b : Byte) : (s.setVF b).dt = s.dt := rfl
@[simp] theorem State.setVF_st (s : State) (b : Byte) : (s.setVF b).st = s.st := rfl
@[simp] theorem State.setVF_quirks (s : State) (b : Byte) : (s.setVF b).quirks = s.quirks := rfl
@[simp] theorem State.setVF_mem (s : State) (b : Byte) : (s.setVF b).mem = s.mem := rfl
@[simp] theorem State.setVF_fb (s : State) (b : Byte) : (s.setVF b).fb = s.fb := rfl
@[simp] theorem State.setVF_keys (s : State) (b : Byte) : (s.setVF b).keys = s.keys := rfl
@[simp] theorem State.setVF_freshKey (s : State) (b : Byte) : (s.setVF b).freshKey = s.freshKey := rfl
@[simp] theorem State.setVF_run (s : State) (b : Byte) : (s.setVF b).run = s.run := rfl
@[simp] theorem State.setVF_fault (s : State) (b : Byte) : (s.setVF b).fault = s.fault := rfl
@[simp] theorem State.setVF_diagLog (s : State) (b : Byte) : (s.setVF b).diagLog = s.diagLog := rfl
@[simp] theorem State.setVF_params (s : State) (b : Byte) : (s.setVF b).params = s.params := rfl
@[simp] theorem State.setVF_randCount (s : State) (b : Byte) : (s.setVF b).randCount = s.randCount := rfl
@[simp] theorem State.setVF_keyCount (s : State) (b : Byte) : (s.setVF b).keyCount = s.keyCount := rfl
@[simp] theorem State.setVF_script (s : State) (b : Byte) : (s.setVF b).script = s.script := rfl

@[simp] theorem State.setI_v (s : State) (n : Nat) : (s.setI n).v = s.v := rfl
@[simp] theorem State.setI_i (s : State) (n : Nat) : (s.setI n).i = BitVec.ofNat 16 n := rfl
@[simp] theorem State.setI_pc (s : State) (n : Nat) : (s.setI n).pc = s.pc := rfl
@[simp] theorem State.setI_stack (s : State) (n : Nat) : (s.setI n).stack = s.stack := rfl
@[simp] theorem State.setI_dt (s : State) (n : Nat) : (s.setI n).dt = s.dt := rfl
@[simp] theorem State.setI_st (s : State) (n : Nat) : (s.setI n).st = s.st := rfl
@[simp] theorem State.setI_quirks (s : State) (n : Nat) : (s.setI n).quirks = s.quirks := rfl
@[simp] theorem State.setI_mem (s : State) (n : Nat) : (s.setI n).mem = s.mem := rfl
@[simp] theorem State.setI_fb (s : State) (n : Nat) : (s.setI n).fb = s.fb := rfl
@[simp] theorem State.setI_keys (s : State) (n : Nat) : (s.setI n).keys = s.keys := rfl
@[simp] theorem State.setI_freshKey (s : State) (n : Nat) : (s.setI n).freshKey = s.freshKey := rfl
@[simp] theorem State.setI_run (s : State) (n : Nat) : (s.setI n).run = s.run := rfl
@[simp] theorem State.setI_fault (s : State) (n : Nat) : (s.setI n).fault = s.fault := rfl
@[simp] theorem State.setI_diagLog (s : State) (n : Nat) : (s.setI n).diagLog = s.diagLog := rfl
@[simp] theorem State.setI_params (s : State) (n : Nat) : (s.setI n).params = s.params := rfl
@[simp] theorem State.setI_randCount (s : State) (n : Nat) : (s.setI n).randCount = s.randCount := rfl
@[simp] theorem State.setI_keyCount (s : State) (n : Nat) : (s.setI n).keyCount = s.keyCount := rfl
@[simp] theorem State.setI_script (s : State) (n : Nat) : (s.setI n).script = s.script := rfl
@[simp] theorem State.setI_reg (s : State) (n : Nat) (j : Nibble) : (s.setI n).reg j = s.reg j := rfl

@[simp] theorem State.setPc_v (s : State) (n : Nat) : (s.setPc n).v = s.v := rfl
@[simp] theorem State.setPc_i (s : State) (n : Nat) : (s.setPc n).i = s.i := rfl
@[simp] theorem State.setPc_pc (s : State) (n : Nat) : (s.setPc n).pc = BitVec.ofNat 16 n := rfl
@[simp] theorem State.setPc_stack (s : State) (n : Nat) : (s.setPc n).stack = s.stack := rfl
@[simp] theorem State.setPc_dt (s : State) (n : Nat) : (s.setPc n).dt = s.dt := rfl
@[simp] theorem State.setPc_st (s : State) (n : Nat) : (s.setPc n).st = s.st := rfl
@[simp] theorem State.setPc_quirks (s : State) (n : Nat) : (s.setPc n).quirks = s.quirks := rfl
@[simp] theorem State.setPc_mem (s : State) (n : Nat) : (s.setPc n).mem = s.mem := rfl
@[simp] theorem State.setPc_fb (s : State) (n : Nat) : (s.setPc n).fb = s.fb := rfl
@[simp] theorem State.setPc_keys (s : State) (n : Nat) : (s.setPc n).keys = s.keys := rfl
@[simp] theorem State.setPc_freshKey (s : State) (n : Nat) : (s.setPc n).freshKey = s.freshKey := rfl
@[simp] theorem State.setPc_run (s : State) (n : Nat) : (s.setPc n).run = s.run := rfl
@[simp] theorem State.setPc_fault (s : State) (n : Nat) : (s.setPc n).fault = s.fault := rfl
@[simp] theorem State.setPc_diagLog (s : State) (n : Nat) : (s.setPc n).diagLog = s.diagLog := rfl
@[simp] theorem State.setPc_params (s : State) (n : Nat) : (s.setPc n).params = s.params := rfl
@[simp] theorem State.setPc_randCount (s : State) (n : Nat) : (s.setPc n).randCount = s.randCount := rfl
@[simp] theorem State.setPc_keyCount (s : State) (n : Nat) : (s.setPc n).keyCount = s.keyCount := rfl
@[simp] theorem State.setPc_script (s : State) (n : Nat) : (s.setPc n).script = s.script := rfl
@[simp] theorem State.setPc_reg (s : State) (n : Nat) (j : Nibble) : (s.setPc n).reg j = s.reg j := rfl

@[simp] theorem State.advance_v (s : State) : (s.advance).v = s.v := rfl
@[simp] theorem State.advance_i (s : State) : (s.advance).i = s.i := rfl
@[simp] theorem State.advance_pc (s : State) : (s.advance).pc = BitVec.ofNat 16 (s.pc.toNat + 2) := rfl
@[simp] theorem State.advance_stack (s : State) : (s.advance).stack = s.stack := rfl
@[simp] theorem State.advance_dt (s : State) : (s.advance).dt = s.dt := rfl
@[simp] theorem State.advance_st (s : State) : (s.advance).st = s.st := rfl
@[simp] theorem State.advance_quirks (s : State) : (s.advance).quirks = s.quirks := rfl
@[simp] theorem State.advance_mem (s : State) : (s.advance).mem = s.mem := rfl
@[simp] theorem State.advance_fb (s : State) : (s.advance).fb = s.fb := rfl
@[simp] theorem State.advance_keys (s : State) : (s.advance).keys = s.keys := rfl
@[simp] theorem State.advance_freshKey (s : State) : (s.advance).freshKey = s.freshKey := rfl
@[simp] theorem State.advance_run (s : State) : (s.advance).run = s.run := rfl
@[simp] theorem State.advance_fault (s : State) : (s.advance).fault = s.fault := rfl
@[simp] theorem State.advance_diagLog (s : State) : (s.advance).diagLog = s.diagLog := rfl
@[simp] theorem State.advance_params (s : State) : (s.advance).params = s.params := rfl
@[simp] theorem State.advance_randCount (s : State) : (s.advance).randCount = s.randCount := rfl
@[simp] theorem State.advance_keyCount (s : State) : (s.advance).keyCount = s.keyCount := rfl
@[simp] theorem State.advance_script (s : State) : (s.advance).script = s.script := rfl
@[simp] theorem State.advance_reg (s : State) (j : Nibble) : (s.advance).reg j = s.reg j := rfl

@[simp] theorem State.rewind_v (s : State) : (s.rewind).v = s.v := rfl
@[simp] theorem State.rewind_i (s : State) : (s.rewind).i = s.i := rfl
@[simp] theorem State.rewind_pc (s : State) : (s.rewind).pc = s.pc - 2#16 := rfl
@[simp] theorem State.rewind_stack (s : State) : (s.rewind).stack = s.stack := rfl
@[simp] theorem State.rewind_dt (s : State) : (s.rewind).dt = s.dt := rfl
@[simp] theorem State.rewind_st (s : State) : (s.rewind).st = s.st := rfl
@[simp] theorem State.rewind_quirks (s : State) : (s.rewind).quirks = s.quirks := rfl
@[simp] theorem State.rewind_mem (s : State) : (s.rewind).mem = s.mem := rfl
@[simp] theorem State.rewind_fb (s : State) : (s.rewind).fb = s.fb := rfl
@[simp] theorem State.rewind_keys (s : State) : (s.rewind).keys = s.keys := rfl
@[simp] theorem State.rewind_freshKey (s : State) : (s.rewind).freshKey = s.freshKey := rfl
@[simp] theorem State.rewind_run (s : State) : (s.rewind).run = s.run := rfl
@[simp] theorem State.rewind_fault (s : State) : (s.rewind).fault = s.fault := rfl
@[simp] theorem State.rewind_diagLog (s : State) : (s.rewind).diagLog = s.diagLog := rfl
@[simp] theorem State.rewind_params (s : State) : (s.rewind).params = s.params := rfl
@[simp] theorem State.rewind_randCount (s : State) : (s.rewind).randCount = s.randCount := rfl
@[simp] theorem State.rewind_keyCount (s : State) : (s.rewind).keyCount = s.keyCount := rfl
@[simp] theorem State.rewind_script (s : State) : (s.rewind).script = s.script := rfl
@[simp] theorem State.rewind_reg (s : State) (j : Nibble) : (s.rewind).reg j = s.reg j := rfl

@[simp] theorem State.writeAll_v (s : State) (rs : List Nat) (bs : List Byte) : (s.writeAll rs bs).v = s.v := rfl
@[simp] theorem State.writeAll_i (s : State) (rs : List Nat) (bs : List Byte) : (s.writeAll rs bs).i = s.i := rfl
@[simp] theorem State.writeAll_pc (s : State) (rs : List Nat) (bs : List Byte) : (s.writeAll rs bs).pc = s.pc := rfl
@[simp] theorem State.writeAll_stack (s : State) (rs : List Nat) (bs : List Byte) : (s.writeAll rs bs).stack = s.stack := rfl
@[simp] theorem State.writeAll_dt (s : State) (rs : List Nat) (bs : List Byte) : (s.writeAll rs bs).dt = s.dt := rfl
@[simp] theorem State.writeAll_st (s : State) (rs : List Nat) (bs : List Byte) : (s.writeAll rs bs).st = s.st := rfl
@[simp] theorem State.writeAll_quirks (s : State) (rs : List Nat) (bs : List Byte) : (s.writeAll rs bs).quirks = s.quirks := rfl
@[simp] theorem State.writeAll_mem (s : State) (rs : List Nat) (bs : List Byte) : (s.writeAll rs bs).mem = Memory.writeCells s.mem (rs.zip bs) := rfl
@[simp] theorem State.writeAll_fb (s : State) (rs : List Nat) (bs : List Byte) : (s.writeAll rs bs).fb = s.fb := rfl
@[simp] theorem State.writeAll_keys (s : State) (rs : List Nat) (bs : List Byte) : (s.writeAll rs bs).keys = s.keys := rfl
@[simp] theorem State.writeAll_freshKey (s : State) (rs : List Nat) (bs : List Byte) : (s.writeAll rs bs).freshKey = s.freshKey := rfl
@[simp] theorem State.writeAll_run (s : State) (rs : List Nat) (bs : List Byte) : (s.writeAll rs bs).run = s.run := rfl
@[simp] theorem State.writeAll_fault (s : State) (rs : List Nat) (bs : List Byte) : (s.writeAll rs bs).fault = s.fault := rfl
@[simp] theorem State.writeAll_diagLog (s : State) (rs : List Nat) (bs : List Byte) : (s.writeAll rs bs).diagLog = s.diagLog := rfl
@[simp] theorem State.writeAll_params (s : State) (rs : List Nat) (bs : List Byte) : (s.writeAll rs bs).params = s.params := rfl
@[simp] theorem State.writeAll_randCount (s : State) (rs : List Nat) (bs : List Byte) : (s.writeAll rs bs).randCount = s.randCount := rfl
@[simp] theorem State.writeAll_keyCount (s : State) (rs : List Nat) (bs : List Byte) : (s.writeAll rs bs).keyCount = s.keyCount := rfl
@[simp] theorem State.writeAll_script (s : State) (rs : List Nat) (bs : List Byte) : (s.writeAll rs bs).script = s.script := rfl
@[simp] theorem State.writeAll_reg (s : State) (rs : List Nat) (bs : List Byte) (j : Nibble) : (s.writeAll rs bs).reg j = s.reg j := rfl

@[simp] theorem State.setDelay_v (s : State) (b : Byte) : (s.setDelay b).v = s.v := rfl
@[simp] theorem State.setDelay_i (s : State) (b : Byte) : (s.setDelay b).i = s.i := rfl
@[simp] theorem State.setDelay_pc (s : State) (b : Byte) : (s.setDelay b).pc = s.pc := rfl
@[simp] theorem State.setDelay_stack (s : State) (b : Byte) : (s.setDelay b).stack = s.stack := rfl
@[simp] theorem State.setDelay_dt (s : State) (b : Byte) : (s.setDelay b).dt = b := rfl
@[simp] theorem State.setDelay_st (s : State) (b : Byte) : (s.setDelay b).st = s.st := rfl
@[simp] theorem State.setDelay_quirks (s : State) (b : Byte) : (s.setDelay b).quirks = s.quirks := rfl
@[simp] theorem State.setDelay_mem (s : State) (b : Byte) : (s.setDelay b).mem = s.mem := rfl
@[simp] theorem State.setDelay_fb (s : State) (b : Byte) : (s.setDelay b).fb = s.fb := rfl
@[simp] theorem State.setDelay_keys (s : State) (b : Byte) : (s.setDelay b).keys = s.keys := rfl
@[simp] theorem State.setDelay_freshKey (s : State) (b : Byte) : (s.setDelay b).freshKey = s.freshKey := rfl
@[simp] theorem State.setDelay_run (s : State) (b : Byte) : (s.setDelay b).run = s.run := rfl
@[simp] theorem State.setDelay_fault (s : State) (b : Byte) : (s.setDelay b).fault = s.fault := rfl
@[simp] theorem State.setDelay_diagLog (s : State) (b : Byte) : (s.setDelay b).diagLog = s.diagLog := rfl
@[simp] theorem State.setDelay_params (s : State) (b : Byte) : (s.setDelay b).params = s.params := rfl
@[simp] theorem State.setDelay_randCount (s : State) (b : Byte) : (s.setDelay b).randCount = s.randCount := rfl
@[simp] theorem State.setDelay_keyCount (s : State) (b : Byte) : (s.setDelay b).keyCount = s.keyCount := rfl
@[simp] theorem State.setDelay_script (s : State) (b : Byte) : (s.setDelay b).script = s.script := rfl
@[simp] theorem State.setDelay_reg (s : State) (b : Byte) (j : Nibble) : (s.setDelay b).reg j = s.reg j := rfl

@[simp] theorem State.setSound_v (s : State) (b : Byte) : (s.setSound b).v = s.v := rfl
@[simp] theorem State.setSound_i (s : State) (b : Byte) : (s.setSound b).i = s.i := rfl
@[simp] theorem State.setSound_pc (s : State) (b : Byte) : (s.setSound b).pc = s.pc := rfl
@[simp] theorem State.setSound_stack (s : State) (b : Byte) : (s.setSound b).stack = s.stack := rfl
@[simp] theorem State.setSound_dt (s : State) (b : Byte) : (s.setSound b).dt = s.dt := rfl
@[simp] theorem State.setSound_st (s : State) (b : Byte) : (s.setSound b).st = b := rfl
@[simp] theorem State.setSound_quirks (s : State) (b : Byte) : (s.setSound b).quirks = s.quirks := rfl
@[simp] theorem State.setSound_mem (s : State) (b : Byte) : (s.setSound b).mem = s.mem := rfl
@[simp] theorem State.setSound_fb (s : State) (b : Byte) : (s.setSound b).fb = s.fb := rfl
@[simp] theorem State.setSound_keys (s : State) (b : Byte) : (s.setSound b).keys = s.keys := rfl
@[simp] theorem State.setSound_freshKey (s : State) (b : Byte) : (s.setSound b).freshKey = s.freshKey := rfl
@[simp] theorem State.setSound_run (s : State) (b : Byte) : (s.setSound b).run = s.run := rfl
@[simp] theorem State.setSound_fault (s : State) (b : Byte) : (s.setSound b).fault = s.fault := rfl
@[simp] theorem State.setSound_diagLog (s : State) (b : Byte) : (s.setSound b).diagLog = s.diagLog := rfl
@[simp] theorem State.setSound_params (s : State) (b : Byte) : (s.setSound b).params = s.params := rfl
@[simp] theorem State.setSound_randCount (s : State) (b : Byte) : (s.setSound b).randCount = s.randCount := rfl
@[simp] theorem State.setSound_keyCount (s : State) (b : Byte) : (s.setSound b).keyCount = s.keyCount := rfl
@[simp] theorem State.setSound_script (s : State) (b : Byte) : (s.setSound b).script = s.script := rfl
@[simp] theorem State.setSound_reg (s : State) (b : Byte) (j : Nibble) : (s.setSound b).reg j = s.reg j := rfl

@[simp] theorem State.diag_v (s : State) (m : DiagRecord) : (s.diag m).v = s.v := rfl
@[simp] theorem State.diag_i (s : State) (m : DiagRecord) : (s.diag m).i = s.i := rfl
@[simp] theorem State.diag_pc (s : State) (m : DiagRecord) : (s.diag m).pc = s.pc := rfl
@[simp] theorem State.diag_stack (s : State) (m : DiagRecord) : (s.diag m).stack = s.stack := rfl
@[simp] theorem State.diag_dt (s : State) (m : DiagRecord) : (s.diag m).dt = s.dt := rfl
@[simp] theorem State.diag_st (s : State) (m : DiagRecord) : (s.diag m).st = s.st := rfl
@[simp] theorem State.diag_quirks (s : State) (m : DiagRecord) : (s.diag m).quirks = s.quirks := rfl
@[simp] theorem State.diag_mem (s : State) (m : DiagRecord) : (s.diag m).mem = s.mem := rfl
@[simp] theorem State.diag_fb (s : State) (m : DiagRecord) : (s.diag m).fb = s.fb := rfl
@[simp] theorem State.diag_keys (s : State) (m : DiagRecord) : (s.diag m).keys = s.keys := rfl
@[simp] theorem State.diag_freshKey (s : State) (m : DiagRecord) : (s.diag m).freshKey = s.freshKey := rfl
@[simp] theorem State.diag_run (s : State) (m : DiagRecord) : (s.diag m).run = s.run := rfl
@[simp] theorem State.diag_fault (s : State) (m : DiagRecord) : (s.diag m).fault = s.fault := rfl
@[simp] theorem State.diag_diagLog (s : State) (m : DiagRecord) : (s.diag m).diagLog = s.diagLog ++ [m] := rfl
@[simp] theorem State.diag_params (s : State) (m : DiagRecord) : (s.diag m).params = s.params := rfl
@[simp] theorem State.diag_randCount (s : State) (m : DiagRecord) : (s.diag m).randCount = s.randCount := rfl
@[simp] theorem State.diag_keyCount (s : State) (m : DiagRecord) : (s.diag m).keyCount = s.keyCount := rfl
@[simp] theorem State.diag_script (s : State) (m : DiagRecord) : (s.diag m).script = s.script := rfl
@[simp] theorem State.diag_reg (s : State) (m : DiagRecord) (j : Nibble) : (s.diag m).reg j = s.reg j := rfl

@[simp] theorem State.stackClear_v (s : State) : (s.stackClear).v = s.v := rfl
@[simp] theorem State.stackClear_i (s : State) : (s.stackClear).i = s.i := rfl
@[simp] theorem State.stackClear_pc (s : State) : (s.stackClear).pc = s.pc := rfl
@[simp] theorem State.stackClear_stack (s : State) : (s.stackClear).stack = [] := rfl
@[simp] theorem State.stackClear_dt (s : State) : (s.stackClear).dt = s.dt := rfl
@[simp] theorem State.stackClear_st (s : State) : (s.stackClear).st = s.st := rfl
@[simp] theorem State.stackClear_quirks (s : State) : (s.stackClear).quirks = s.quirks := rfl
@[simp] theorem State.stackClear_mem (s : State) : (s.stackClear).mem = s.mem := rfl
@[simp] theorem State.stackClear_fb (s : State) : (s.stackClear).fb = s.fb := rfl
@[simp] theorem State.stackClear_keys (s : State) : (s.stackClear).keys = s.keys := rfl
@[simp] theorem State.stackClear_freshKey (s : State) : (s.stackClear).freshKey = s.freshKey := rfl
@[simp] theorem State.stackClear_run (s : State) : (s.stackClear).run = s.run := rfl
@[simp] theorem State.stackClear_fault (s : State) : (s.stackClear).fault = s.fault := rfl
@[simp] theorem State.stackClear_diagLog (s : State) : (s.stackClear).diagLog = s.diagLog := rfl
@[simp] theorem State.stackClear_params (s : State) : (s.stackClear).params = s.params := rfl
@[simp] theorem State.stackClear_randCount (s : State) : (s.stackClear).randCount = s.randCount := rfl
@[simp] theorem State.stackClear_keyCount (s : State) : (s.stackClear).keyCount = s.keyCount := rfl
@[simp] theorem State.stackClear_script (s : State) : (s.stackClear).script = s.script := rfl
@[simp] theorem State.stackClear_reg (s : State) (j : Nibble) : (s.stackClear).reg j = s.reg j := rfl

@[simp] theorem State.frameEvent_v (s : State) : (s.frameEvent).v = s.v := rfl
@[simp] theorem State.frameEvent_i (s : State) : (s.frameEvent).i = s.i := rfl
@[simp] theorem State.frameEvent_pc (s : State) : (s.frameEvent).pc = s.pc := rfl
@[simp] theorem State.frameEvent_stack (s : State) : (s.frameEvent).stack = s.stack := rfl
@[simp] theorem State.frameEvent_dt (s : State) : (s.frameEvent).dt = countDown s.dt := rfl
@[simp] theorem State.frameEvent_st (s : State) : (s.frameEvent).st = countDown s.st := rfl
@[simp] theorem State.frameEvent_quirks (s : State) : (s.frameEvent).quirks = s.quirks := rfl
@[simp] theorem State.frameEvent_mem (s : State) : (s.frameEvent).mem = s.mem := rfl
@[simp] theorem State.frameEvent_fb (s : State) : (s.frameEvent).fb = s.fb := rfl
@[simp] theorem State.frameEvent_keys (s : State) : (s.frameEvent).keys = s.keys := rfl
@[simp] theorem State.frameEvent_freshKey (s : State) : (s.frameEvent).freshKey = none := rfl
@[simp] theorem State.frameEvent_run (s : State) : (s.frameEvent).run = s.run := rfl
@[simp] theorem State.frameEvent_fault (s : State) : (s.frameEvent).fault = s.fault := rfl
@[simp] theorem State.frameEvent_diagLog (s : State) : (s.frameEvent).diagLog = s.diagLog := rfl
@[simp] theorem State.frameEvent_params (s : State) : (s.frameEvent).params = s.params := rfl
@[simp] theorem State.frameEvent_randCount (s : State) : (s.frameEvent).randCount = s.randCount := rfl
@[simp] theorem State.frameEvent_keyCount (s : State) : (s.frameEvent).keyCount = s.keyCount := rfl
@[simp] theorem State.frameEvent_script (s : State) : (s.frameEvent).script = s.script := rfl
@[simp] theorem State.frameEvent_reg (s : State) (j : Nibble) : (s.frameEvent).reg j = s.reg j := rfl

@[simp] theorem State.keyDownEvent_v (s : State) (k : Nibble) : (s.keyDownEvent k).v = s.v := rfl
@[simp] theorem State.keyDownEvent_i (s : State) (k : Nibble) : (s.keyDownEvent k).i = s.i := rfl
@[simp] theorem State.keyDownEvent_pc (s : State) (k : Nibble) : (s.keyDownEvent k).pc = s.pc := rfl
@[simp] theorem State.keyDownEvent_stack (s : State) (k : Nibble) : (s.keyDownEvent k).stack = s.stack := rfl
@[simp] theorem State.keyDownEvent_dt (s : State) (k : Nibble) : (s.keyDownEvent k).dt = s.dt := rfl
@[simp] theorem State.keyDownEvent_st (s : State) (k : Nibble) : (s.keyDownEvent k).st = s.st := rfl
@[simp] theorem State.keyDownEvent_quirks (s : State) (k : Nibble) : (s.keyDownEvent k).quirks = s.quirks := rfl
@[simp] theorem State.keyDownEvent_mem (s : State) (k : Nibble) : (s.keyDownEvent k).mem = s.mem := rfl
@[simp] theorem State.keyDownEvent_fb (s : State) (k : Nibble) : (s.keyDownEvent k).fb = s.fb := rfl
@[simp] theorem State.keyDownEvent_keys (s : State) (k : Nibble) : (s.keyDownEvent k).keys = s.keys.set k.toNat true k.isLt := rfl
@[simp] theorem State.keyDownEvent_freshKey (s : State) (k : Nibble) : (s.keyDownEvent k).freshKey = s.freshKey := rfl
@[simp] theorem State.keyDownEvent_run (s : State) (k : Nibble) : (s.keyDownEvent k).run = s.run := rfl
@[simp] theorem State.keyDownEvent_fault (s : State) (k : Nibble) : (s.keyDownEvent k).fault = s.fault := rfl
@[simp] theorem State.keyDownEvent_diagLog (s : State) (k : Nibble) : (s.keyDownEvent k).diagLog = s.diagLog := rfl
@[simp] theorem State.keyDownEvent_params (s : State) (k : Nibble) : (s.keyDownEvent k).params = s.params := rfl
@[simp] theorem State.keyDownEvent_randCount (s : State) (k : Nibble) : (s.keyDownEvent k).randCount = s.randCount := rfl
@[simp] theorem State.keyDownEvent_keyCount (s : State) (k : Nibble) : (s.keyDownEvent k).keyCount = s.keyCount := rfl
@[simp] theorem State.keyDownEvent_script (s : State) (k : Nibble) : (s.keyDownEvent k).script = s.script := rfl
@[simp] theorem State.keyDownEvent_reg (s : State) (k : Nibble) (j : Nibble) : (s.keyDownEvent k).reg j = s.reg j := rfl

@[simp] theorem State.keyUpEvent_v (s : State) (k : Nibble) : (s.keyUpEvent k).v = s.v := rfl
@[simp] theorem State.keyUpEvent_i (s : State) (k : Nibble) : (s.keyUpEvent k).i = s.i := rfl
@[simp] theorem State.keyUpEvent_pc (s : State) (k : Nibble) : (s.keyUpEvent k).pc = s.pc := rfl
@[simp] theorem State.keyUpEvent_stack (s : State) (k : Nibble) : (s.keyUpEvent k).stack = s.stack := rfl
@[simp] theorem State.keyUpEvent_dt (s : State) (k : Nibble) : (s.keyUpEvent k).dt = s.dt := rfl
@[simp] theorem State.keyUpEvent_st (s : State) (k : Nibble) : (s.keyUpEvent k).st = s.st := rfl
@[simp] theorem State.keyUpEvent_quirks (s : State) (k : Nibble) : (s.keyUpEvent k).quirks = s.quirks := rfl
@[simp] theorem State.keyUpEvent_mem (s : State) (k : Nibble) : (s.keyUpEvent k).mem = s.mem := rfl
@[simp] theorem State.keyUpEvent_fb (s : State) (k : Nibble) : (s.keyUpEvent k).fb = s.fb := rfl
@[simp] theorem State.keyUpEvent_keys (s : State) (k : Nibble) : (s.keyUpEvent k).keys = s.keys.set k.toNat false k.isLt := rfl
@[simp] theorem State.keyUpEvent_freshKey (s : State) (k : Nibble) : (s.keyUpEvent k).freshKey = some k := rfl
@[simp] theorem State.keyUpEvent_run (s : State) (k : Nibble) : (s.keyUpEvent k).run = s.run := rfl
@[simp] theorem State.keyUpEvent_fault (s : State) (k : Nibble) : (s.keyUpEvent k).fault = s.fault := rfl
@[simp] theorem State.keyUpEvent_diagLog (s : State) (k : Nibble) : (s.keyUpEvent k).diagLog = s.diagLog := rfl
@[simp] theorem State.keyUpEvent_params (s : State) (k : Nibble) : (s.keyUpEvent k).params = s.params := rfl
@[simp] theorem State.keyUpEvent_randCount (s : State) (k : Nibble) : (s.keyUpEvent k).randCount = s.randCount := rfl
@[simp] theorem State.keyUpEvent_keyCount (s : State) (k : Nibble) : (s.keyUpEvent k).keyCount = s.keyCount := rfl
@[simp] theorem State.keyUpEvent_script (s : State) (k : Nibble) : (s.keyUpEvent k).script = s.script := rfl
@[simp] theorem State.keyUpEvent_reg (s : State) (k : Nibble) (j : Nibble) : (s.keyUpEvent k).reg j = s.reg j := rfl

@[simp] theorem State.quirkWrite_v (s : State) (q : Config.Quirks) : (s.quirkWrite q).v = s.v := rfl
@[simp] theorem State.quirkWrite_i (s : State) (q : Config.Quirks) : (s.quirkWrite q).i = s.i := rfl
@[simp] theorem State.quirkWrite_pc (s : State) (q : Config.Quirks) : (s.quirkWrite q).pc = s.pc := rfl
@[simp] theorem State.quirkWrite_stack (s : State) (q : Config.Quirks) : (s.quirkWrite q).stack = s.stack := rfl
@[simp] theorem State.quirkWrite_dt (s : State) (q : Config.Quirks) : (s.quirkWrite q).dt = s.dt := rfl
@[simp] theorem State.quirkWrite_st (s : State) (q : Config.Quirks) : (s.quirkWrite q).st = s.st := rfl
@[simp] theorem State.quirkWrite_quirks (s : State) (q : Config.Quirks) : (s.quirkWrite q).quirks = q := rfl
@[simp] theorem State.quirkWrite_mem (s : State) (q : Config.Quirks) : (s.quirkWrite q).mem = s.mem := rfl
@[simp] theorem State.quirkWrite_fb (s : State) (q : Config.Quirks) : (s.quirkWrite q).fb = s.fb := rfl
@[simp] theorem State.quirkWrite_keys (s : State) (q : Config.Quirks) : (s.quirkWrite q).keys = s.keys := rfl
@[simp] theorem State.quirkWrite_freshKey (s : State) (q : Config.Quirks) : (s.quirkWrite q).freshKey = s.freshKey := rfl
@[simp] theorem State.quirkWrite_run (s : State) (q : Config.Quirks) : (s.quirkWrite q).run = s.run := rfl
@[simp] theorem State.quirkWrite_fault (s : State) (q : Config.Quirks) : (s.quirkWrite q).fault = s.fault := rfl
@[simp] theorem State.quirkWrite_diagLog (s : State) (q : Config.Quirks) : (s.quirkWrite q).diagLog = s.diagLog := rfl
@[simp] theorem State.quirkWrite_params (s : State) (q : Config.Quirks) : (s.quirkWrite q).params = s.params := rfl
@[simp] theorem State.quirkWrite_randCount (s : State) (q : Config.Quirks) : (s.quirkWrite q).randCount = s.randCount := rfl
@[simp] theorem State.quirkWrite_keyCount (s : State) (q : Config.Quirks) : (s.quirkWrite q).keyCount = s.keyCount := rfl
@[simp] theorem State.quirkWrite_script (s : State) (q : Config.Quirks) : (s.quirkWrite q).script = s.script := rfl
@[simp] theorem State.quirkWrite_reg (s : State) (q : Config.Quirks) (j : Nibble) : (s.quirkWrite q).reg j = s.reg j := rfl

@[simp] theorem State.memoryIoWrite_v (s : State) (a : Addr) (b : Byte) : (s.memoryIoWrite a b).v = s.v := rfl
@[simp] theorem State.memoryIoWrite_i (s : State) (a : Addr) (b : Byte) : (s.memoryIoWrite a b).i = s.i := rfl
@[simp] theorem State.memoryIoWrite_pc (s : State) (a : Addr) (b : Byte) : (s.memoryIoWrite a b).pc = s.pc := rfl
@[simp] theorem State.memoryIoWrite_stack (s : State) (a : Addr) (b : Byte) : (s.memoryIoWrite a b).stack = s.stack := rfl
@[simp] theorem State.memoryIoWrite_dt (s : State) (a : Addr) (b : Byte) : (s.memoryIoWrite a b).dt = s.dt := rfl
@[simp] theorem State.memoryIoWrite_st (s : State) (a : Addr) (b : Byte) : (s.memoryIoWrite a b).st = s.st := rfl
@[simp] theorem State.memoryIoWrite_quirks (s : State) (a : Addr) (b : Byte) : (s.memoryIoWrite a b).quirks = s.quirks := rfl
@[simp] theorem State.memoryIoWrite_mem (s : State) (a : Addr) (b : Byte) : (s.memoryIoWrite a b).mem = Memory.write s.mem a.toNat b := rfl
@[simp] theorem State.memoryIoWrite_fb (s : State) (a : Addr) (b : Byte) : (s.memoryIoWrite a b).fb = s.fb := rfl
@[simp] theorem State.memoryIoWrite_keys (s : State) (a : Addr) (b : Byte) : (s.memoryIoWrite a b).keys = s.keys := rfl
@[simp] theorem State.memoryIoWrite_freshKey (s : State) (a : Addr) (b : Byte) : (s.memoryIoWrite a b).freshKey = s.freshKey := rfl
@[simp] theorem State.memoryIoWrite_run (s : State) (a : Addr) (b : Byte) : (s.memoryIoWrite a b).run = s.run := rfl
@[simp] theorem State.memoryIoWrite_fault (s : State) (a : Addr) (b : Byte) : (s.memoryIoWrite a b).fault = s.fault := rfl
@[simp] theorem State.memoryIoWrite_diagLog (s : State) (a : Addr) (b : Byte) : (s.memoryIoWrite a b).diagLog = s.diagLog := rfl
@[simp] theorem State.memoryIoWrite_params (s : State) (a : Addr) (b : Byte) : (s.memoryIoWrite a b).params = s.params := rfl
@[simp] theorem State.memoryIoWrite_randCount (s : State) (a : Addr) (b : Byte) : (s.memoryIoWrite a b).randCount = s.randCount := rfl
@[simp] theorem State.memoryIoWrite_keyCount (s : State) (a : Addr) (b : Byte) : (s.memoryIoWrite a b).keyCount = s.keyCount := rfl
@[simp] theorem State.memoryIoWrite_script (s : State) (a : Addr) (b : Byte) : (s.memoryIoWrite a b).script = s.script := rfl
@[simp] theorem State.memoryIoWrite_reg (s : State) (a : Addr) (b : Byte) (j : Nibble) : (s.memoryIoWrite a b).reg j = s.reg j := rfl

@[simp] theorem State.init_v (s : State) : (s.init).v = Vector.replicate 16 0#8 := rfl
@[simp] theorem State.init_i (s : State) : (s.init).i = 0#16 := rfl
@[simp] theorem State.init_pc (s : State) : (s.init).pc = 0x200#16 := rfl
@[simp] theorem State.init_stack (s : State) : (s.init).stack = [] := rfl
@[simp] theorem State.init_dt (s : State) : (s.init).dt = 0#8 := rfl
@[simp] theorem State.init_st (s : State) : (s.init).st = 0#8 := rfl
@[simp] theorem State.init_quirks (s : State) : (s.init).quirks = s.quirks := rfl
@[simp] theorem State.init_mem (s : State) : (s.init).mem = s.mem := rfl
@[simp] theorem State.init_fb (s : State) : (s.init).fb = s.fb := rfl
@[simp] theorem State.init_keys (s : State) : (s.init).keys = s.keys := rfl
@[simp] theorem State.init_freshKey (s : State) : (s.init).freshKey = s.freshKey := rfl
@[simp] theorem State.init_run (s : State) : (s.init).run = .running := rfl
@[simp] theorem State.init_fault (s : State) : (s.init).fault = s.fault := rfl
@[simp] theorem State.init_diagLog (s : State) : (s.init).diagLog = s.diagLog := rfl
@[simp] theorem State.init_params (s : State) : (s.init).params = s.params := rfl
@[simp] theorem State.init_randCount (s : State) : (s.init).randCount = s.randCount := rfl
@[simp] theorem State.init_keyCount (s : State) : (s.init).keyCount = s.keyCount := rfl
@[simp] theorem State.init_script (s : State) : (s.init).script = s.script := rfl

@[simp] theorem State.afterBadAccess_v (s : State) (base : Nat) : (s.afterBadAccess base).v = s.v := rfl
@[simp] theorem State.afterBadAccess_i (s : State) (base : Nat) : (s.afterBadAccess base).i = s.i := rfl
@[simp] theorem State.afterBadAccess_pc (s : State) (base : Nat) : (s.afterBadAccess base).pc = s.pc := rfl
@[simp] theorem State.afterBadAccess_stack (s : State) (base : Nat) : (s.afterBadAccess base).stack = s.stack := rfl
@[simp] theorem State.afterBadAccess_dt (s : State) (base : Nat) : (s.afterBadAccess base).dt = s.dt := rfl
@[simp] theorem State.afterBadAccess_st (s : State) (base : Nat) : (s.afterBadAccess base).st = s.st := rfl
@[simp] theorem State.afterBadAccess_quirks (s : State) (base : Nat) : (s.afterBadAccess base).quirks = s.quirks := rfl
@[simp] theorem State.afterBadAccess_mem (s : State) (base : Nat) : (s.afterBadAccess base).mem = s.mem := rfl
@[simp] theorem State.afterBadAccess_fb (s : State) (base : Nat) : (s.afterBadAccess base).fb = s.fb := rfl
@[simp] theorem State.afterBadAccess_keys (s : State) (base : Nat) : (s.afterBadAccess base).keys = s.keys := rfl
@[simp] theorem State.afterBadAccess_freshKey (s : State) (base : Nat) : (s.afterBadAccess base).freshKey = s.freshKey := rfl
@[simp] theorem State.afterBadAccess_run (s : State) (base : Nat) : (s.afterBadAccess base).run = s.run := rfl
@[simp] theorem State.afterBadAccess_fault (s : State) (base : Nat) : (s.afterBadAccess base).fault = some ⟨.memOutOfRange, max base 0x1000⟩ := rfl
@[simp] theorem State.afterBadAccess_diagLog (s : State) (base : Nat) : (s.afterBadAccess base).diagLog = s.diagLog := rfl
@[simp] theorem State.afterBadAccess_params (s : State) (base : Nat) : (s.afterBadAccess base).params = s.params := rfl
@[simp] theorem State.afterBadAccess_randCount (s : State) (base : Nat) : (s.afterBadAccess base).randCount = s.randCount := rfl
@[simp] theorem State.afterBadAccess_keyCount (s : State) (base : Nat) : (s.afterBadAccess base).keyCount = s.keyCount := rfl
@[simp] theorem State.afterBadAccess_script (s : State) (base : Nat) : (s.afterBadAccess base).script = s.script := rfl
@[simp] theorem State.afterBadAccess_reg (s : State) (base : Nat) (j : Nibble) : (s.afterBadAccess base).reg j = s.reg j := rfl

/-- Reading a register depends on V alone. -/
theorem State.reg_congr {s t : State} (h : t.v = s.v) (k : Nibble) : t.reg k = s.reg k := by
  unfold State.reg; simp only [h]

@[simp] theorem State.rand_snd_v (s : State) : s.rand.2.v = s.v := rfl
@[simp] theorem State.rand_snd_i (s : State) : s.rand.2.i = s.i := rfl
@[simp] theorem State.rand_snd_pc (s : State) : s.rand.2.pc = s.pc := rfl
@[simp] theorem State.rand_snd_stack (s : State) : s.rand.2.stack = s.stack := rfl
@[simp] theorem State.rand_snd_dt (s : State) : s.rand.2.dt = s.dt := rfl
@[simp] theorem State.rand_snd_st (s : State) : s.rand.2.st = s.st := rfl
@[simp] theorem State.rand_snd_quirks (s : State) : s.rand.2.quirks = s.quirks := rfl
@[simp] theorem State.rand_snd_mem (s : State) : s.rand.2.mem = s.mem := rfl
@[simp] theorem State.rand_snd_fb (s : State) : s.rand.2.fb = s.fb := rfl
@[simp] theorem State.rand_snd_keys (s : State) : s.rand.2.keys = s.keys := rfl
@[simp] theorem State.rand_snd_freshKey (s : State) : s.rand.2.freshKey = s.freshKey := rfl
@[simp] theorem State.rand_snd_run (s : State) : s.rand.2.run = s.run := rfl
@[simp] theorem State.rand_snd_fault (s : State) : s.rand.2.fault = s.fault := rfl
@[simp] theorem State.rand_snd_diagLog (s : State) : s.rand.2.diagLog = s.diagLog := rfl
@[simp] theorem State.rand_snd_params (s : State) : s.rand.2.params = s.params := rfl
@[simp] theorem State.rand_snd_randCount (s : State) : s.rand.2.randCount = s.randCount + 1 := rfl
@[simp] theorem State.rand_snd_keyCount (s : State) : s.rand.2.keyCount = s.keyCount := rfl
@[simp] theorem State.rand_snd_script (s : State) : s.rand.2.script = s.script := rfl
@[simp] theorem State.rand_snd_reg (s : State) (k : Nibble) : s.rand.2.reg k = s.reg k := rfl
@[simp] theorem State.rand_fst (s : State) : s.rand.1 = Config.randByte s.randCount := rfl

@[simp] theorem State.keyDown_snd_v (s : State) (k : Byte) : (s.keyDown k).2.v = s.v := by
  unfold State.keyDown; split <;> rfl
@[simp] theorem State.keyDown_snd_i (s : State) (k : Byte) : (s.keyDown k).2.i = s.i := by
  unfold State.keyDown; split <;> rfl
@[simp] theorem State.keyDown_snd_pc (s : State) (k : Byte) : (s.keyDown k).2.pc = s.pc := by
  unfold State.keyDown; split <;> rfl
@[simp] theorem State.keyDown_snd_stack (s : State) (k : Byte) : (s.keyDown k).2.stack = s.stack := by
  unfold State.keyDown; split <;> rfl
@[simp] theorem State.keyDown_snd_dt (s : State) (k : Byte) : (s.keyDown k).2.dt = s.dt := by
  unfold State.keyDown; split <;> rfl
@[simp] theorem State.keyDown_snd_st (s : State) (k : Byte) : (s.keyDown k).2.st = s.st := by
  unfold State.keyDown; split <;> rfl
@[simp] theorem State.keyDown_snd_quirks (s : State) (k : Byte) : (s.keyDown k).2.quirks = s.quirks := by
  unfold State.keyDown; split <;> rfl
@[simp] theorem State.keyDown_snd_mem (s : State) (k : Byte) : (s.keyDown k).2.mem = s.mem := by
  unfold State.keyDown; split <;> rfl
@[simp] theorem State.keyDown_snd_fb (s : State) (k : Byte) : (s.keyDown k).2.fb = s.fb := by
  unfold State.keyDown; split <;> rfl
@[simp] theorem State.keyDown_snd_keys (s : State) (k : Byte) : (s.keyDown k).2.keys = s.keys := by
  unfold State.keyDown; split <;> rfl
@[simp] theorem State.keyDown_snd_freshKey (s : State) (k : Byte) : (s.keyDown k).2.freshKey = s.freshKey := by
  unfold State.keyDown; split <;> rfl
@[simp] theorem State.keyDown_snd_run (s : State) (k : Byte) : (s.keyDown k).2.run = s.run := by
  unfold State.keyDown; split <;> rfl
@[simp] theorem State.keyDown_snd_fault (s : State) (k : Byte) : (s.keyDown k).2.fault = s.fault := by
  unfold State.keyDown; split <;> rfl
@[simp] theorem State.keyDown_snd_diagLog (s : State) (k : Byte) : (s.keyDown k).2.diagLog = s.diagLog := by
  unfold State.keyDown; split <;> rfl
@[simp] theorem State.keyDown_snd_params (s : State) (k : Byte) : (s.keyDown k).2.params = s.params := by
  unfold State.keyDown; split <;> rfl
@[simp] theorem State.keyDown_snd_randCount (s : State) (k : Byte) : (s.keyDown k).2.randCount = s.randCount := by
  unfold State.keyDown; split <;> rfl
@[simp] theorem State.keyDown_snd_script (s : State) (k : Byte) : (s.keyDown k).2.script = s.script := by
  unfold State.keyDown; split <;> rfl

/-- Writing a register, then reading one (10_state R31). -/
theorem State.reg_setReg (s : State) (x k : Nibble) (b : Byte) :
    (s.setReg x b).reg k = if k = x then b else s.reg k := by
  by_cases h : k = x
  · subst h; simp [State.reg, State.setReg]
  · have h' : x.toNat ≠ k.toNat := fun e => h (BitVec.eq_of_toNat_eq e.symm)
    simp [State.reg, State.setReg, h, Vector.getElem_set_ne _ _ h']

@[simp] theorem State.reg_setReg_self (s : State) (x : Nibble) (b : Byte) : (s.setReg x b).reg x = b := by
  simp [State.reg_setReg]

theorem State.reg_setReg_ne (s : State) {x k : Nibble} (b : Byte) (h : k ≠ x) : (s.setReg x b).reg k = s.reg k := by
  simp [State.reg_setReg, h]

/-- Writing VF, then reading a register (10_state R32). -/
theorem State.reg_setVF (s : State) (k : Nibble) (b : Byte) :
    (s.setVF b).reg k = if k = 0xF#4 then b else s.reg k := State.reg_setReg s 0xF#4 k b

/-- Two states with the same registers have the same V. -/
theorem State.v_ext {s t : State} (h : ∀ k : Nibble, t.reg k = s.reg k) : t.v = s.v := by
  apply Vector.ext
  intro n hn
  have := h (BitVec.ofNat 4 n)
  simpa [State.reg, BitVec.toNat_ofNat, Nat.mod_eq_of_lt hn] using this

/-- A frame holds of the state itself. -/
theorem KeepsAllBut.refl (ws : List Place) (s : State) : KeepsAllBut ws s s where
  host := ⟨rfl, rfl, rfl, rfl, rfl, rfl⟩
  places := by intro p _; cases p <;> simp [Place.same]

end Sys2Proof.Machine
end

