-- ==== Sys2Proof/Laws/Ops.lean ====
section
/-! SUPPORT. One lemma per shared operation that says what it can do: raising, the stack, ranges, fetch, register lists, memory lists, pixels, the quirk statements and the flags. -/
namespace Sys2Proof.Machine

open Sys2Proof.Config

@[simp] theorem orRaise_ok {α : Type} (s : State) (a : α) (k : α → Result) : orRaise s (.ok a) k = k a := rfl

@[simp] theorem orRaise_error {α : Type} (s : State) (r : FaultRecord) (k : α → Result) :
    orRaise s (.error r) k = .next { s with fault := some r } := rfl

/-- What `orRaise` answers: the fault's state, or what the continuation answers. -/
theorem orRaise_cases {α : Type} {s t : State} {e : Except FaultRecord α} {k : α → Result}
    (h : orRaise s e k = .next t) :
    (∃ r, e = .error r ∧ t = { s with fault := some r }) ∨ ∃ a, e = .ok a ∧ k a = .next t := by
  cases e with
  | error r => exact .inl ⟨r, rfl, by simpa using h.symm⟩
  | ok a => exact .inr ⟨a, rfl, h⟩

/-- `Push` below the limit (10_state R41). -/
theorem State.push_ok (s : State) (v : Word) (h : s.params.stackLimit ≠ some s.stack.length) :
    s.push v = .ok { s with stack := s.stack ++ [v] } := by simp [State.push, h]

/-- `Push` at the limit (10_state R41). -/
theorem State.push_full (s : State) (v : Word) (h : s.params.stackLimit = some s.stack.length) :
    s.push v = .error ⟨.stackOverflow, s.pc.toNat⟩ := by simp [State.push, h]

/-- Everything `Push` can answer. -/
theorem State.push_cases (s : State) (v : Word) :
    (s.params.stackLimit = some s.stack.length ∧ s.push v = .error ⟨.stackOverflow, s.pc.toNat⟩) ∨
      (s.params.stackLimit ≠ some s.stack.length ∧ s.push v = .ok { s with stack := s.stack ++ [v] }) := by
  by_cases h : s.params.stackLimit = some s.stack.length
  · exact .inl ⟨h, s.push_full v h⟩
  · exact .inr ⟨h, s.push_ok v h⟩

/-- `Pop` of an empty stack (10_state R42). -/
theorem State.pop_empty (s : State) (h : s.stack = []) : s.pop = .error ⟨.stackUnderflow, s.pc.toNat⟩ := by
  simp [State.pop, h]

/-- `Pop` of the value pushed last (10_state R42). -/
theorem State.pop_concat (s : State) (rest : List Word) (v : Word) (h : s.stack = rest ++ [v]) :
    s.pop = .ok (v, { s with stack := rest }) := by simp [State.pop, h]

/-- Everything `Pop` can answer. -/
theorem State.pop_cases (s : State) :
    (s.stack = [] ∧ s.pop = .error ⟨.stackUnderflow, s.pc.toNat⟩) ∨
      ∃ rest v, s.stack = rest ++ [v] ∧ s.pop = .ok (v, { s with stack := rest }) := by
  rcases List.eq_nil_or_concat s.stack with h | ⟨rest, v, h⟩
  · exact .inl ⟨h, s.pop_empty h⟩
  · rw [List.concat_eq_append] at h
    exact .inr ⟨rest, v, h, s.pop_concat rest v h⟩

/-- Everything resolving a range can answer (20_memory R74, R75). -/
theorem State.resolveRange_cases (s : State) (base n : Nat) :
    (∃ rs, s.resolveRange base n = .ok rs ∧ resolveFrom s.params.memOob base n = .ok rs) ∨
      (s.params.memOob = .fault ∧ 0x1000 < base + n ∧
        s.resolveRange base n = .error ⟨.memOutOfRange, max base 0x1000⟩) := by
  unfold State.resolveRange
  cases h : resolveFrom s.params.memOob base n with
  | ok rs => exact .inl ⟨rs, rfl, rfl⟩
  | error b =>
    obtain ⟨ho, hb, rfl⟩ := resolveFrom_error h
    exact .inr ⟨ho, hb, rfl⟩

/-- A reachable range resolves (R74). -/
theorem State.resolveRange_ok {s : State} {base n : Nat} (h : Reachable s base n) :
    ∃ rs, s.resolveRange base n = .ok rs ∧ resolveFrom s.params.memOob base n = .ok rs := by
  obtain ⟨rs, hrs⟩ := resolveFrom_total (o := s.params.memOob) (base := base) (n := n) h
  exact ⟨rs, by simp [State.resolveRange, hrs], hrs⟩

/-- A range that is not reachable raises `MemOutOfRange` with its lowest bad address (R75). -/
theorem State.resolveRange_bad {s : State} {base n : Nat} (ho : s.params.memOob = .fault) (hn : 0 < n)
    (hb : 0x1000 < base + n) : s.resolveRange base n = .error ⟨.memOutOfRange, max base 0x1000⟩ := by
  rcases s.resolveRange_cases base n with ⟨rs, -, h⟩ | ⟨-, -, h⟩
  · obtain ⟨hl, hk⟩ := resolveFrom_ok h
    have := hk (n - 1) (by omega)
    rw [ho] at this
    have e : resolve .fault (base + (n - 1)) = .error (base + (n - 1)) := by
      unfold resolve; rw [if_neg (by omega)]
    rw [e] at this
    cases this
  · exact h

/-- A fetch that answers a word (30_encoding R101): both addresses resolve, the word is big-endian, PC is advanced. -/
theorem State.fetch_ok {s t : State} {w : Word} (h : s.fetch = .ok (w, t)) :
    ∃ hiAt loAt, resolve s.params.memOob s.pc.toNat = .ok hiAt ∧
      resolve s.params.memOob (s.pc.toNat + 1) = .ok loAt ∧
      w = wordOfBytes (Memory.read s.mem hiAt) (Memory.read s.mem loAt) ∧ t = s.advance := by
  unfold State.fetch at h
  split at h
  · cases h
  · rename_i hiAt hhi
    split at h
    · cases h
    · rename_i loAt hlo
      cases h
      exact ⟨hiAt, loAt, hhi, hlo, rfl, rfl⟩

/-- A fetch whose addresses resolve answers their word (R101). -/
theorem State.fetch_of_resolve {s : State} {hiAt loAt : Nat} (hhi : resolve s.params.memOob s.pc.toNat = .ok hiAt)
    (hlo : resolve s.params.memOob (s.pc.toNat + 1) = .ok loAt) :
    s.fetch = .ok (wordOfBytes (Memory.read s.mem hiAt) (Memory.read s.mem loAt), s.advance) := by
  simp [State.fetch, hhi, hlo]

/-- A fetch that raises: `MEM_OOB` is `Fault`, the word passes 0xFFF, and the info is its lowest bad address (20_memory
R75; 60_exceptions R300). -/
theorem State.fetch_error {s : State} {r : FaultRecord} (h : s.fetch = .error r) :
    s.params.memOob = .fault ∧ 0xFFF < s.pc.toNat + 1 ∧ r = ⟨.memOutOfRange, max s.pc.toNat 0x1000⟩ := by
  unfold State.fetch at h
  split at h
  · rename_i a ha
    cases h
    obtain ⟨ho, rfl, hb⟩ := resolve_error ha
    exact ⟨ho, by omega, by congr; omega⟩
  · rename_i hiAt hhi
    split at h
    · rename_i a ha
      cases h
      obtain ⟨ho, rfl, hb⟩ := resolve_error ha
      have : s.pc.toNat ≤ 0xFFF := by
        rw [ho] at hhi
        unfold resolve at hhi
        split at hhi
        · assumption
        · cases hhi
      exact ⟨ho, hb, by congr; omega⟩
    · cases h

/-- Loading registers from a list (42_index_memory R215, R217). -/
theorem State.reg_setRegsFrom (s : State) (k : Nat) (bs : List Byte) (h : k + bs.length ≤ 16) (j : Nibble) :
    (s.setRegsFrom k bs).reg j =
      if hj : k ≤ j.toNat ∧ j.toNat < k + bs.length then bs[j.toNat - k]'(by omega) else s.reg j := by
  induction bs generalizing s k with
  | nil =>
    have : ¬ (k ≤ j.toNat ∧ j.toNat < k + ([] : List Byte).length) := by simp only [List.length_nil]; omega
    rw [dif_neg this]; rfl
  | cons b bs ih =>
    simp only [List.length_cons] at h
    unfold State.setRegsFrom
    rw [ih _ _ (by omega), State.reg_setReg]
    have hk : (BitVec.ofNat 4 k).toNat = k := Nat.mod_eq_of_lt (by omega)
    by_cases e : j = BitVec.ofNat 4 k
    · have ej : j.toNat = k := by rw [e, hk]
      rw [dif_neg (by omega), if_pos e, dif_pos (by simp only [List.length_cons]; omega)]
      simp [ej]
    · have ej : j.toNat ≠ k := fun h' => e (BitVec.eq_of_toNat_eq (by rw [hk, h']))
      rw [if_neg e]
      by_cases c : k + 1 ≤ j.toNat ∧ j.toNat < k + 1 + bs.length
      · rw [dif_pos c, dif_pos (by simp only [List.length_cons]; omega)]
        have : j.toNat - k = (j.toNat - (k + 1)) + 1 := by omega
        simp [this]
      · rw [dif_neg c, dif_neg (by simp only [List.length_cons]; omega)]

@[simp] theorem State.setRegsFrom_i (s : State) (k : Nat) (bs : List Byte) : (s.setRegsFrom k bs).i = s.i := by
  induction bs generalizing s k with
  | nil => rfl
  | cons b bs ih => exact ih _ _
@[simp] theorem State.setRegsFrom_pc (s : State) (k : Nat) (bs : List Byte) : (s.setRegsFrom k bs).pc = s.pc := by
  induction bs generalizing s k with
  | nil => rfl
  | cons b bs ih => exact ih _ _
@[simp] theorem State.setRegsFrom_stack (s : State) (k : Nat) (bs : List Byte) : (s.setRegsFrom k bs).stack = s.stack := by
  induction bs generalizing s k with
  | nil => rfl
  | cons b bs ih => exact ih _ _
@[simp] theorem State.setRegsFrom_dt (s : State) (k : Nat) (bs : List Byte) : (s.setRegsFrom k bs).dt = s.dt := by
  induction bs generalizing s k with
  | nil => rfl
  | cons b bs ih => exact ih _ _
@[simp] theorem State.setRegsFrom_st (s : State) (k : Nat) (bs : List Byte) : (s.setRegsFrom k bs).st = s.st := by
  induction bs generalizing s k with
  | nil => rfl
  | cons b bs ih => exact ih _ _
@[simp] theorem State.setRegsFrom_quirks (s : State) (k : Nat) (bs : List Byte) : (s.setRegsFrom k bs).quirks = s.quirks := by
  induction bs generalizing s k with
  | nil => rfl
  | cons b bs ih => exact ih _ _
@[simp] theorem State.setRegsFrom_mem (s : State) (k : Nat) (bs : List Byte) : (s.setRegsFrom k bs).mem = s.mem := by
  induction bs generalizing s k with
  | nil => rfl
  | cons b bs ih => exact ih _ _
@[simp] theorem State.setRegsFrom_fb (s : State) (k : Nat) (bs : List Byte) : (s.setRegsFrom k bs).fb = s.fb := by
  induction bs generalizing s k with
  | nil => rfl
  | cons b bs ih => exact ih _ _
@[simp] theorem State.setRegsFrom_keys (s : State) (k : Nat) (bs : List Byte) : (s.setRegsFrom k bs).keys = s.keys := by
  induction bs generalizing s k with
  | nil => rfl
  | cons b bs ih => exact ih _ _
@[simp] theorem State.setRegsFrom_freshKey (s : State) (k : Nat) (bs : List Byte) : (s.setRegsFrom k bs).freshKey = s.freshKey := by
  induction bs generalizing s k with
  | nil => rfl
  | cons b bs ih => exact ih _ _
@[simp] theorem State.setRegsFrom_run (s : State) (k : Nat) (bs : List Byte) : (s.setRegsFrom k bs).run = s.run := by
  induction bs generalizing s k with
  | nil => rfl
  | cons b bs ih => exact ih _ _
@[simp] theorem State.setRegsFrom_fault (s : State) (k : Nat) (bs : List Byte) : (s.setRegsFrom k bs).fault = s.fault := by
  induction bs generalizing s k with
  | nil => rfl
  | cons b bs ih => exact ih _ _
@[simp] theorem State.setRegsFrom_diagLog (s : State) (k : Nat) (bs : List Byte) : (s.setRegsFrom k bs).diagLog = s.diagLog := by
  induction bs generalizing s k with
  | nil => rfl
  | cons b bs ih => exact ih _ _
@[simp] theorem State.setRegsFrom_params (s : State) (k : Nat) (bs : List Byte) : (s.setRegsFrom k bs).params = s.params := by
  induction bs generalizing s k with
  | nil => rfl
  | cons b bs ih => exact ih _ _
@[simp] theorem State.setRegsFrom_randCount (s : State) (k : Nat) (bs : List Byte) : (s.setRegsFrom k bs).randCount = s.randCount := by
  induction bs generalizing s k with
  | nil => rfl
  | cons b bs ih => exact ih _ _
@[simp] theorem State.setRegsFrom_keyCount (s : State) (k : Nat) (bs : List Byte) : (s.setRegsFrom k bs).keyCount = s.keyCount := by
  induction bs generalizing s k with
  | nil => rfl
  | cons b bs ih => exact ih _ _
@[simp] theorem State.setRegsFrom_script (s : State) (k : Nat) (bs : List Byte) : (s.setRegsFrom k bs).script = s.script := by
  induction bs generalizing s k with
  | nil => rfl
  | cons b bs ih => exact ih _ _
@[simp] theorem incIndex_v (s : State) (base : Nat) (x : Nibble) : (incIndex s base x).v = s.v := by
  unfold incIndex; split <;> rfl
@[simp] theorem incIndex_pc (s : State) (base : Nat) (x : Nibble) : (incIndex s base x).pc = s.pc := by
  unfold incIndex; split <;> rfl
@[simp] theorem incIndex_stack (s : State) (base : Nat) (x : Nibble) : (incIndex s base x).stack = s.stack := by
  unfold incIndex; split <;> rfl
@[simp] theorem incIndex_dt (s : State) (base : Nat) (x : Nibble) : (incIndex s base x).dt = s.dt := by
  unfold incIndex; split <;> rfl
@[simp] theorem incIndex_st (s : State) (base : Nat) (x : Nibble) : (incIndex s base x).st = s.st := by
  unfold incIndex; split <;> rfl
@[simp] theorem incIndex_quirks (s : State) (base : Nat) (x : Nibble) : (incIndex s base x).quirks = s.quirks := by
  unfold incIndex; split <;> rfl
@[simp] theorem incIndex_mem (s : State) (base : Nat) (x : Nibble) : (incIndex s base x).mem = s.mem := by
  unfold incIndex; split <;> rfl
@[simp] theorem incIndex_fb (s : State) (base : Nat) (x : Nibble) : (incIndex s base x).fb = s.fb := by
  unfold incIndex; split <;> rfl
@[simp] theorem incIndex_keys (s : State) (base : Nat) (x : Nibble) : (incIndex s base x).keys = s.keys := by
  unfold incIndex; split <;> rfl
@[simp] theorem incIndex_freshKey (s : State) (base : Nat) (x : Nibble) : (incIndex s base x).freshKey = s.freshKey := by
  unfold incIndex; split <;> rfl
@[simp] theorem incIndex_run (s : State) (base : Nat) (x : Nibble) : (incIndex s base x).run = s.run := by
  unfold incIndex; split <;> rfl
@[simp] theorem incIndex_fault (s : State) (base : Nat) (x : Nibble) : (incIndex s base x).fault = s.fault := by
  unfold incIndex; split <;> rfl
@[simp] theorem incIndex_diagLog (s : State) (base : Nat) (x : Nibble) : (incIndex s base x).diagLog = s.diagLog := by
  unfold incIndex; split <;> rfl
@[simp] theorem incIndex_params (s : State) (base : Nat) (x : Nibble) : (incIndex s base x).params = s.params := by
  unfold incIndex; split <;> rfl
@[simp] theorem incIndex_randCount (s : State) (base : Nat) (x : Nibble) : (incIndex s base x).randCount = s.randCount := by
  unfold incIndex; split <;> rfl
@[simp] theorem incIndex_keyCount (s : State) (base : Nat) (x : Nibble) : (incIndex s base x).keyCount = s.keyCount := by
  unfold incIndex; split <;> rfl
@[simp] theorem incIndex_script (s : State) (base : Nat) (x : Nibble) : (incIndex s base x).script = s.script := by
  unfold incIndex; split <;> rfl
@[simp] theorem incIndex_reg (s : State) (base : Nat) (x k : Nibble) : (incIndex s base x).reg k = s.reg k := by
  unfold incIndex; split <;> rfl

/-- The increment of FX55 and FX65 (42_index_memory R218). -/
theorem incIndex_i (s : State) (base : Nat) (x : Nibble) :
    (incIndex s base x).i = if s.quirks.incI then BitVec.ofNat 16 (base + x.toNat + 1) else s.i := by
  unfold incIndex; split <;> rfl

@[simp] theorem shiftSource_i (s : State) (x y : Nibble) : (shiftSource s x y).i = s.i := by
  unfold shiftSource; split <;> rfl
@[simp] theorem shiftSource_pc (s : State) (x y : Nibble) : (shiftSource s x y).pc = s.pc := by
  unfold shiftSource; split <;> rfl
@[simp] theorem shiftSource_stack (s : State) (x y : Nibble) : (shiftSource s x y).stack = s.stack := by
  unfold shiftSource; split <;> rfl
@[simp] theorem shiftSource_dt (s : State) (x y : Nibble) : (shiftSource s x y).dt = s.dt := by
  unfold shiftSource; split <;> rfl
@[simp] theorem shiftSource_st (s : State) (x y : Nibble) : (shiftSource s x y).st = s.st := by
  unfold shiftSource; split <;> rfl
@[simp] theorem shiftSource_quirks (s : State) (x y : Nibble) : (shiftSource s x y).quirks = s.quirks := by
  unfold shiftSource; split <;> rfl
@[simp] theorem shiftSource_mem (s : State) (x y : Nibble) : (shiftSource s x y).mem = s.mem := by
  unfold shiftSource; split <;> rfl
@[simp] theorem shiftSource_fb (s : State) (x y : Nibble) : (shiftSource s x y).fb = s.fb := by
  unfold shiftSource; split <;> rfl
@[simp] theorem shiftSource_keys (s : State) (x y : Nibble) : (shiftSource s x y).keys = s.keys := by
  unfold shiftSource; split <;> rfl
@[simp] theorem shiftSource_freshKey (s : State) (x y : Nibble) : (shiftSource s x y).freshKey = s.freshKey := by
  unfold shiftSource; split <;> rfl
@[simp] theorem shiftSource_run (s : State) (x y : Nibble) : (shiftSource s x y).run = s.run := by
  unfold shiftSource; split <;> rfl
@[simp] theorem shiftSource_fault (s : State) (x y : Nibble) : (shiftSource s x y).fault = s.fault := by
  unfold shiftSource; split <;> rfl
@[simp] theorem shiftSource_diagLog (s : State) (x y : Nibble) : (shiftSource s x y).diagLog = s.diagLog := by
  unfold shiftSource; split <;> rfl
@[simp] theorem shiftSource_params (s : State) (x y : Nibble) : (shiftSource s x y).params = s.params := by
  unfold shiftSource; split <;> rfl
@[simp] theorem shiftSource_randCount (s : State) (x y : Nibble) : (shiftSource s x y).randCount = s.randCount := by
  unfold shiftSource; split <;> rfl
@[simp] theorem shiftSource_keyCount (s : State) (x y : Nibble) : (shiftSource s x y).keyCount = s.keyCount := by
  unfold shiftSource; split <;> rfl
@[simp] theorem shiftSource_script (s : State) (x y : Nibble) : (shiftSource s x y).script = s.script := by
  unfold shiftSource; split <;> rfl

/-- The registers a shift starts from (41_alu R181). -/
theorem shiftSource_reg (s : State) (x y k : Nibble) :
    (shiftSource s x y).reg k = if s.quirks.shiftVY = true ∧ k = x then s.reg y else s.reg k := by
  unfold shiftSource
  by_cases h : s.quirks.shiftVY = true
  · simp [h, State.reg_setReg]
  · simp [h]

theorem State.length_regsUpTo (s : State) (x : Nibble) : (s.regsUpTo x).length = x.toNat + 1 := by
  have := x.isLt
  simp [State.regsUpTo]; omega

theorem State.getElem_regsUpTo (s : State) (x : Nibble) (k : Nat) (h : k < (s.regsUpTo x).length) :
    (s.regsUpTo x)[k] = s.reg (BitVec.ofNat 4 k) := by
  have hx := x.isLt
  have hk : k < x.toNat + 1 := by rwa [State.length_regsUpTo] at h
  have e : (BitVec.ofNat 4 k).toNat = k := by simp; omega
  simp [State.regsUpTo, State.reg, e]

theorem State.length_readAll (s : State) (rs : List Nat) : (s.readAll rs).length = rs.length := by simp [State.readAll]

/-- A list of writes leaves every address it does not name (20_memory R72). -/
theorem Memory.read_writeCells_other (m : Memory) (cs : List (Nat × Byte)) (a : Nat) (h : ∀ c ∈ cs, c.1 ≠ a) :
    Memory.read (Memory.writeCells m cs) a = Memory.read m a := by
  induction cs generalizing m with
  | nil => rfl
  | cons c cs ih =>
    unfold Memory.writeCells
    rw [ih _ fun d hd => h d (by simp [hd]), Memory.read_write, if_neg (Ne.symm (h c (by simp)))]

/-- The last write of a list to an address is the one a read sees (20_memory R72, R79). -/
theorem Memory.read_writeCells_last (m : Memory) (before after : List (Nat × Byte)) (a : Nat) (b : Byte)
    (h : ∀ c ∈ after, c.1 ≠ a) : Memory.read (Memory.writeCells m (before ++ (a, b) :: after)) a = b := by
  induction before generalizing m with
  | nil =>
    simp only [List.nil_append, Memory.writeCells]
    rw [Memory.read_writeCells_other _ _ _ h, Memory.read_write, if_pos rfl]
  | cons c cs ih => simp only [List.cons_append, Memory.writeCells]; exact ih _

/-- Setting a bit of a column, then reading one. -/
theorem getElem_setColumnBit (col : BitVec 32) (r k : Fin 32) (on : Bool) :
    (setColumnBit col r on)[k.val]'(k.isLt) = if k = r then on else col[k.val]'(k.isLt) := by
  unfold setColumnBit
  have hk := k.isLt
  have hr := r.isLt
  by_cases h : k = r
  · subst h
    cases on <;> simp
  · have h' : r.val ≠ k.val := fun e => h (Fin.ext e.symm)
    cases on <;> simp [h, Ne.symm h']

/-- Setting a pixel, then reading one (10_state R51). -/
theorem FrameBuffer.pixel_setPixel (fb : FrameBuffer) (c c' : Fin 64) (r r' : Fin 32) (on : Bool) :
    FrameBuffer.pixel (FrameBuffer.setPixel fb c r on) c' r' =
      if c' = c ∧ r' = r then on else FrameBuffer.pixel fb c' r' := by
  unfold FrameBuffer.pixel FrameBuffer.setPixel
  by_cases h : c' = c
  · subst h
    simp only [Vector.getElem_set_self, getElem_setColumnBit, true_and]
  · have h' : c.val ≠ c'.val := fun e => h (Fin.ext e.symm)
    simp [h, Vector.getElem_set_ne _ _ h']

theorem FrameBuffer.pixel_clear (c : Fin 64) (r : Fin 32) : FrameBuffer.pixel FrameBuffer.clear c r = false := by
  simp [FrameBuffer.pixel, FrameBuffer.clear]

/-- Framebuffers with the same pixels are equal. -/
theorem FrameBuffer.ext_pixel {f g : FrameBuffer} (h : ∀ c r, FrameBuffer.pixel f c r = FrameBuffer.pixel g c r) :
    f = g := by
  apply Vector.ext
  intro c hc
  apply BitVec.eq_of_getElem_eq
  intro r hr
  exact h ⟨c, hc⟩ ⟨r, hr⟩

/-- The stored sum (41_alu R172, R177). -/
theorem sumByte_toNat (x y : Byte) : (sumByte x y).toNat = (x.toNat + y.toNat) % 256 := by simp [sumByte]

/-- The stored difference (41_alu R180). -/
theorem diffByte_toNat (x y : Byte) : ((diffByte x y).toNat : Int) = ((x.toNat : Int) - (y.toNat : Int)) % 256 := by
  simp only [diffByte, exactDiff, BitVec.toNat_ofInt]
  omega

/-- The flag of a subtraction: no borrow (41_alu R180). -/
theorem noBorrowFlag_eq (x y : Byte) : noBorrowFlag x y = if y.toNat ≤ x.toNat then 1#8 else 0#8 := by
  simp [noBorrowFlag, exactDiff, flagByte]

theorem carryFlag_eq (x y : Byte) : carryFlag x y = if 255 < x.toNat + y.toNat then 1#8 else 0#8 := by
  simp [carryFlag, flagByte]

theorem shrByte_toNat (b : Byte) : (shrByte b).toNat = b.toNat / 2 := by
  simp [shrByte, Nat.shiftRight_eq_div_pow]

theorem shrOut_toNat (b : Byte) : (shrOut b).toNat = b.toNat % 2 := by
  simp [shrOut]

theorem shlByte_toNat (b : Byte) : (shlByte b).toNat = b.toNat * 2 % 256 := by
  simp [shlByte, Nat.shiftLeft_eq]

theorem shlOut_toNat (b : Byte) : (shlOut b).toNat = b.toNat / 128 := by
  have := b.isLt
  simp [shlOut, Nat.shiftRight_eq_div_pow]
  omega

theorem fontDigit_eq (b : Byte) : fontDigit b = b.toNat % 16 := by
  simp only [fontDigit, BitVec.toNat_and]
  exact Nat.and_two_pow_sub_one_eq_mod b.toNat 4

/-- A counter's decrement saturates at 0 (60_exceptions R310). -/
theorem countDown_toNat (b : Byte) : (countDown b).toNat = b.toNat - 1 := by
  have := b.isLt
  unfold countDown
  split
  · simp; omega
  · simp; omega

/-- A byte that `isStored` leaves out is none of the resolved addresses. -/
theorem Place.not_stored {s : State} {n a : Nat} {rs : List Nat} (h : (Place.byte a).isStored s n = false)
    (hr : s.resolveRange s.i.toNat n = .ok rs) : a ∉ rs := by
  simpa [Place.isStored, hr] using h

/-- `writeAll` keeps every byte whose address it is not given (20_memory R72). -/
theorem State.read_writeAll_ne (s : State) {rs : List Nat} (bs : List Byte) {a : Nat} (h : a ∉ rs) :
    Memory.read (s.writeAll rs bs).mem a = Memory.read s.mem a := by
  rw [State.writeAll_mem]
  exact Memory.read_writeCells_other _ _ _ fun c hc e => h (e ▸ (List.of_mem_zip (a := c.1) (b := c.2) hc).1)

end Sys2Proof.Machine
end

