-- ==== Sys2Proof/Laws/PerInstr.lean ====
section
/-! SUPPORT. What holds of every instruction as syntax, one lemma per constructor: its encoding belongs to its own row of the opcode map (30_encoding R106). -/
namespace Sys2Proof.Laws.EncodingMatchesRow

/-- The encoding of a well-formed instruction belongs to the row that carries its mnemonic; the fallback has no row. -/
def Statement (i : Instr) : Prop :=
  ((opcodeMap.find? fun r => r.mnemonic == i.mnemonic).all fun r => r.matchesWord (encode i)) = true

theorem clearScreen : Statement (.clearScreen) := by
  rfl

theorem returnFromSubroutine : Statement (.returnFromSubroutine) := by
  rfl

theorem jump (nnn : Addr) : Statement (.jump nnn) := by
  show (encode (.jump nnn) &&& 0xF000#16 == 0x1000#16) = true
  rw [encode, encodeNNN_mask]; rfl

theorem callSubroutine (nnn : Addr) : Statement (.callSubroutine nnn) := by
  show (encode (.callSubroutine nnn) &&& 0xF000#16 == 0x2000#16) = true
  rw [encode, encodeNNN_mask]; rfl

theorem skipEqualVal (x : Nibble) (nn : Byte) : Statement (.skipEqualVal x nn) := by
  show (encode (.skipEqualVal x nn) &&& 0xF000#16 == 0x3000#16) = true
  rw [encode, encodeXNN_mask]; rfl

theorem skipNotEqualVal (x : Nibble) (nn : Byte) : Statement (.skipNotEqualVal x nn) := by
  show (encode (.skipNotEqualVal x nn) &&& 0xF000#16 == 0x4000#16) = true
  rw [encode, encodeXNN_mask]; rfl

theorem skipEqualReg (x : Nibble) (y : Nibble) : Statement (.skipEqualReg x y) := by
  show (encode (.skipEqualReg x y) &&& 0xF00F#16 == 0x5000#16) = true
  rw [encode, encodeXY_mask]; rfl

theorem skipNotEqualReg (x : Nibble) (y : Nibble) : Statement (.skipNotEqualReg x y) := by
  show (encode (.skipNotEqualReg x y) &&& 0xF00F#16 == 0x9000#16) = true
  rw [encode, encodeXY_mask]; rfl

theorem setRegVal (x : Nibble) (nn : Byte) : Statement (.setRegVal x nn) := by
  show (encode (.setRegVal x nn) &&& 0xF000#16 == 0x6000#16) = true
  rw [encode, encodeXNN_mask]; rfl

theorem addWithoutCarry (x : Nibble) (nn : Byte) : Statement (.addWithoutCarry x nn) := by
  show (encode (.addWithoutCarry x nn) &&& 0xF000#16 == 0x7000#16) = true
  rw [encode, encodeXNN_mask]; rfl

theorem setRegReg (x : Nibble) (y : Nibble) : Statement (.setRegReg x y) := by
  show (encode (.setRegReg x y) &&& 0xF00F#16 == 0x8000#16) = true
  rw [encode, encodeXY_mask]; rfl

theorem binOR (x : Nibble) (y : Nibble) : Statement (.binOR x y) := by
  show (encode (.binOR x y) &&& 0xF00F#16 == 0x8001#16) = true
  rw [encode, encodeXY_mask]; rfl

theorem binAND (x : Nibble) (y : Nibble) : Statement (.binAND x y) := by
  show (encode (.binAND x y) &&& 0xF00F#16 == 0x8002#16) = true
  rw [encode, encodeXY_mask]; rfl

theorem binXOR (x : Nibble) (y : Nibble) : Statement (.binXOR x y) := by
  show (encode (.binXOR x y) &&& 0xF00F#16 == 0x8003#16) = true
  rw [encode, encodeXY_mask]; rfl

theorem addWithCarry (x : Nibble) (y : Nibble) : Statement (.addWithCarry x y) := by
  show (encode (.addWithCarry x y) &&& 0xF00F#16 == 0x8004#16) = true
  rw [encode, encodeXY_mask]; rfl

theorem subtract (x : Nibble) (y : Nibble) : Statement (.subtract x y) := by
  show (encode (.subtract x y) &&& 0xF00F#16 == 0x8005#16) = true
  rw [encode, encodeXY_mask]; rfl

theorem subtractNegate (x : Nibble) (y : Nibble) : Statement (.subtractNegate x y) := by
  show (encode (.subtractNegate x y) &&& 0xF00F#16 == 0x8007#16) = true
  rw [encode, encodeXY_mask]; rfl

theorem shiftRight (x : Nibble) (y : Nibble) : Statement (.shiftRight x y) := by
  show (encode (.shiftRight x y) &&& 0xF00F#16 == 0x8006#16) = true
  rw [encode, encodeXY_mask]; rfl

theorem shiftLeft (x : Nibble) (y : Nibble) : Statement (.shiftLeft x y) := by
  show (encode (.shiftLeft x y) &&& 0xF00F#16 == 0x800E#16) = true
  rw [encode, encodeXY_mask]; rfl

theorem setIndex (nnn : Addr) : Statement (.setIndex nnn) := by
  show (encode (.setIndex nnn) &&& 0xF000#16 == 0xA000#16) = true
  rw [encode, encodeNNN_mask]; rfl

theorem jumpWithOffset (nnn : Addr) (x : Nibble) : Statement (.jumpWithOffset nnn x) := by
  show (encode (.jumpWithOffset nnn x) &&& 0xF000#16 == 0xB000#16) = true
  rw [encode, encodeNNN_mask]; rfl

theorem generateRandomNumber (x : Nibble) (nn : Byte) : Statement (.generateRandomNumber x nn) := by
  show (encode (.generateRandomNumber x nn) &&& 0xF000#16 == 0xC000#16) = true
  rw [encode, encodeXNN_mask]; rfl

theorem draw (x : Nibble) (y : Nibble) (n : Nibble) : Statement (.draw x y n) := by
  show (encode (.draw x y n) &&& 0xF000#16 == 0xD000#16) = true
  rw [encode, encodeXY_high_mask]; rfl

theorem skipIfKeyPressed (x : Nibble) : Statement (.skipIfKeyPressed x) := by
  show (encode (.skipIfKeyPressed x) &&& 0xF0FF#16 == 0xE09E#16) = true
  rw [encode, encodeXnn_mask]; rfl

theorem skipIfKeyNotPressed (x : Nibble) : Statement (.skipIfKeyNotPressed x) := by
  show (encode (.skipIfKeyNotPressed x) &&& 0xF0FF#16 == 0xE0A1#16) = true
  rw [encode, encodeXnn_mask]; rfl

theorem readDelayTimer (x : Nibble) : Statement (.readDelayTimer x) := by
  show (encode (.readDelayTimer x) &&& 0xF0FF#16 == 0xF007#16) = true
  rw [encode, encodeXnn_mask]; rfl

theorem writeDelayTimer (x : Nibble) : Statement (.writeDelayTimer x) := by
  show (encode (.writeDelayTimer x) &&& 0xF0FF#16 == 0xF015#16) = true
  rw [encode, encodeXnn_mask]; rfl

theorem writeSoundTimer (x : Nibble) : Statement (.writeSoundTimer x) := by
  show (encode (.writeSoundTimer x) &&& 0xF0FF#16 == 0xF018#16) = true
  rw [encode, encodeXnn_mask]; rfl

theorem addToIndex (x : Nibble) : Statement (.addToIndex x) := by
  show (encode (.addToIndex x) &&& 0xF0FF#16 == 0xF01E#16) = true
  rw [encode, encodeXnn_mask]; rfl

theorem getKey (x : Nibble) : Statement (.getKey x) := by
  show (encode (.getKey x) &&& 0xF0FF#16 == 0xF00A#16) = true
  rw [encode, encodeXnn_mask]; rfl

theorem fontCharacter (x : Nibble) : Statement (.fontCharacter x) := by
  show (encode (.fontCharacter x) &&& 0xF0FF#16 == 0xF029#16) = true
  rw [encode, encodeXnn_mask]; rfl

theorem bcdConvert (x : Nibble) : Statement (.bcdConvert x) := by
  show (encode (.bcdConvert x) &&& 0xF0FF#16 == 0xF033#16) = true
  rw [encode, encodeXnn_mask]; rfl

theorem storeRegisters (x : Nibble) : Statement (.storeRegisters x) := by
  show (encode (.storeRegisters x) &&& 0xF0FF#16 == 0xF055#16) = true
  rw [encode, encodeXnn_mask]; rfl

theorem loadRegisters (x : Nibble) : Statement (.loadRegisters x) := by
  show (encode (.loadRegisters x) &&& 0xF0FF#16 == 0xF065#16) = true
  rw [encode, encodeXnn_mask]; rfl

theorem defaultOp (w : Word) : Statement (.defaultOp w) := by
  rfl

end Sys2Proof.Laws.EncodingMatchesRow
end

