-- ==== Sys2Proof/Laws/Step.lean ====
section
/-! SUPPORT. Everything a tick and a step can do, once, for the proofs over every step. -/
namespace Sys2Proof.Machine

/-- A tick that answers a state: the core runs without a recorded fault, and either the fetch raised, or the decoded
word was executed with PC advanced (30_encoding R111; 60_exceptions R332). -/
theorem tick_cases {s t : State} (h : tick s = .next t) :
    s.run = .running ∧ s.fault = none ∧
      ((∃ r, s.fetch = .error r ∧ t = { s with fault := some r }) ∨
        ∃ w, s.fetch = .ok (w, s.advance) ∧ exec (decode w) s.advance = .next t) := by
  unfold tick at h
  split at h
  · cases h
  · cases h
  · rename_i hr hf
    refine ⟨hr, hf, ?_⟩
    rcases orRaise_cases h with ⟨r, he, ht⟩ | ⟨⟨w, u⟩, he, hx⟩
    · exact .inl ⟨r, he, ht⟩
    · obtain ⟨-, -, -, -, -, rfl⟩ := State.fetch_ok he
      exact .inr ⟨w, he, hx⟩

/-- An admitted tick is one cycle (60_exceptions R332). -/
theorem tick_admitted {s : State} (hr : s.run = .running) (hf : s.fault = none) : tick s = cycle s := by
  unfold tick; simp [hr, hf]

/-- The host's events that are no tick, and what each leaves (60_exceptions R330). -/
inductive HostMove (s : State) : State → Prop where
  | frame : HostMove s s.frameEvent
  | keyDown (k : Nibble) : HostMove s (s.keyDownEvent k)
  | keyUp (k : Nibble) : HostMove s (s.keyUpEvent k)
  | quirks (q : Config.Quirks) : HostMove s (s.quirkWrite q)
  | memory (a : Addr) (b : Byte) : HostMove s (s.memoryIoWrite a b)
  | delay (b : Byte) : HostMove s (s.setDelay b)
  | sound (b : Byte) : HostMove s (s.setSound b)
  | init (h : s.run = .idle) : HostMove s s.init

/-- A step that answers a state: a tick, or a host event of the script; each from the state whose script lost its head,
or from the state itself where the script is empty. -/
theorem step_cases {s t : State} (h : step s = .next t) :
    ∃ u : State, (u = s ∨ ∃ rest, u = { s with script := rest }) ∧ (tick u = .next t ∨ HostMove u t) := by
  unfold step nextEvent at h
  split at h
  · exact ⟨s, .inl rfl, .inl h⟩
  · rename_i e rest hs
    refine ⟨{ s with script := rest }, .inr ⟨rest, rfl⟩, ?_⟩
    cases e with
    | tick => exact .inl h
    | frame => cases h; exact .inr .frame
    | keyDown k => cases h; exact .inr (.keyDown k)
    | keyUp k => cases h; exact .inr (.keyUp k)
    | writeQuirks q => cases h; exact .inr (.quirks q)
    | memWrite a b => cases h; exact .inr (.memory a b)
    | setDelay b => cases h; exact .inr (.delay b)
    | setSound b => cases h; exact .inr (.sound b)
    | init =>
      simp only [runEvent, initEvent] at h
      split at h
      · rename_i hi; cases h; exact .inr (.init hi)
      · cases h

/-- The reset memory is in canonical form. -/
theorem reset_memory_wf : Memory.wf State.reset.mem = true := Memory.wf_nil

/-- A MemoryIO write keeps the canonical form: its address is below 4096 by its type. -/
theorem memoryIoWrite_wf {s : State} (h : Memory.wf s.mem = true) (a : Addr) (b : Byte) :
    Memory.wf (s.memoryIoWrite a b).mem = true := Memory.wf_write h a.isLt b

/-- Writing bytes to resolved addresses keeps the canonical form. -/
theorem writeAll_wf {s : State} (h : Memory.wf s.mem = true) {o : Config.MemOob} {base n : Nat} {rs : List Nat}
    (hrs : resolveFrom o base n = .ok rs) (bs : List Byte) : Memory.wf (s.writeAll rs bs).mem = true := by
  refine Memory.wf_writeCells h _ fun c hc => resolveFrom_lt hrs _ ?_
  exact (List.of_mem_zip (a := c.1) (b := c.2) hc).1

/-- Placing a word keeps the canonical form. -/
theorem placeWord_wf {s : State} (h : Memory.wf s.mem = true) (w : Word) : Memory.wf (placeWord s w).mem = true := by
  have store {m : Memory} (hm : Memory.wf m = true) (a : Nat) (b : Byte) :
      Memory.wf (match resolve s.params.memOob a with
        | .ok r => Memory.write m r b
        | .error _ => m) = true := by
    split
    · rename_i r hr; exact Memory.wf_write hm (resolve_lt hr) b
    · exact hm
  exact store (store h _ _) _ _

end Sys2Proof.Machine
end

