-- ==== Sys2Proof/Tests/Slice0.lean ====
section
/-! SUPPORT. Tests: ill-formed terms the checks refuse, one written-out word per constructor, the spec's own vectors (95_test_vectors), and a witness for the hypotheses of each statement. -/
namespace Sys2Proof.Tests

open Sys2Proof.Machine Sys2Proof.Config

/-- A test of the next state, false where the step stops. -/
def after (o : Result) (p : State → Bool) : Bool :=
  match o with
  | .next t => p t
  | .fault _ => false
  | .refused _ => false

/-- The reset state with some registers set. -/
def regs (l : List (Nibble × Byte)) : State := l.foldl (fun s p => s.setReg p.1 p.2) State.reset

/-- One step with a word placed at PC. -/
def run (s : State) (w : Nat) : Result := step (s.withFetchWord 16 w)

/-- The bytes from an address on, as numbers. -/
def bytes (s : State) (a n : Nat) : List Nat := (List.range n).map fun k => (Memory.read s.mem (a + k)).toNat

/-- The registers of a list, as numbers. -/
def vals (s : State) (l : List Nibble) : List Nat := l.map fun x => (s.reg x).toNat

/-- The reset state with other parameters. -/
def withParams (o : MemOob) (limit : Option Nat) (s : State) : State := { s with params := ⟨o, limit⟩ }

/-- The three quirks true. -/
def allQuirks (s : State) : State := { s with quirks := ⟨true, true, true⟩ }

/-- The coordinates, column first, are on. -/
def lit (s : State) (l : List (Fin 64 × Fin 32)) : Bool := l.all fun p => FrameBuffer.pixel s.fb p.1 p.2

/-- How many pixels of a few rows are on. -/
def litCount (s : State) (rows : List (Fin 32)) : Nat :=
  (rows.map fun r => (List.finRange 64).countP fun c => FrameBuffer.pixel s.fb c r).sum

/-! ### Well-formedness: an ill-formed term for each check (40_control_flow R147, 45_default_op R290) -/

theorem test_wf_refuses_jumpWithOffset_x : (Instr.jumpWithOffset 0x300#12 0x4#4).WF = false := by decide

theorem test_wf_refuses_recognized_defaultOp : (Instr.defaultOp 0x6005#16).WF = false := by decide

theorem test_wf_refuses_zero_limit : (Params.wf { memOob := .wrap12, stackLimit := some 0 }) = false := by decide

/-! ### Decoding: words written out bit by bit from 30_encoding R106, one per constructor -/

theorem test_decode_control :
    decode 0b0000000011101110#16 = .returnFromSubroutine ∧ decode 0b0001001000110100#16 = .jump 0x234#12 ∧
    decode 0b0010001100000001#16 = .callSubroutine 0x301#12 ∧
    decode 0b0011001000101010#16 = .skipEqualVal 2#4 0x2A#8 ∧
    decode 0b0100001000101010#16 = .skipNotEqualVal 2#4 0x2A#8 ∧
    decode 0b0101000100110000#16 = .skipEqualReg 1#4 3#4 ∧
    decode 0b1001000100110000#16 = .skipNotEqualReg 1#4 3#4 ∧
    decode 0b1011001100000101#16 = .jumpWithOffset 0x305#12 3#4 := by decide

theorem test_decode_alu :
    decode 0b0110111101000010#16 = .setRegVal 15#4 0x42#8 ∧
    decode 0b0111000100000011#16 = .addWithoutCarry 1#4 3#8 ∧
    decode 0b1000001101000000#16 = .setRegReg 3#4 4#4 ∧ decode 0b1000001101000001#16 = .binOR 3#4 4#4 ∧
    decode 0b1000001101000010#16 = .binAND 3#4 4#4 ∧ decode 0b1000001101000011#16 = .binXOR 3#4 4#4 ∧
    decode 0b1000001101000100#16 = .addWithCarry 3#4 4#4 ∧ decode 0b1000001101000101#16 = .subtract 3#4 4#4 ∧
    decode 0b1000001101000110#16 = .shiftRight 3#4 4#4 ∧ decode 0b1000001101000111#16 = .subtractNegate 3#4 4#4 ∧
    decode 0b1000001101001110#16 = .shiftLeft 3#4 4#4 ∧
    decode 0b1100000000001111#16 = .generateRandomNumber 0#4 0x0F#8 := by decide

theorem test_decode_index_memory :
    decode 0b1010000001010000#16 = .setIndex 0x050#12 ∧ decode 0b1111000100011110#16 = .addToIndex 1#4 ∧
    decode 0b1111000000101001#16 = .fontCharacter 0#4 ∧ decode 0b1111001100110011#16 = .bcdConvert 3#4 ∧
    decode 0b1111001001010101#16 = .storeRegisters 2#4 ∧
    decode 0b1111001001100101#16 = .loadRegisters 2#4 := by decide

theorem test_decode_display :
    decode 0b0000000011100000#16 = .clearScreen ∧ decode 0b1101000100100101#16 = .draw 1#4 2#4 5#4 := by decide

theorem test_decode_input_timer :
    decode 0b1110010110011110#16 = .skipIfKeyPressed 5#4 ∧
    decode 0b1110010110100001#16 = .skipIfKeyNotPressed 5#4 ∧
    decode 0b1111010000000111#16 = .readDelayTimer 4#4 ∧ decode 0b1111001100001010#16 = .getKey 3#4 ∧
    decode 0b1111010000010101#16 = .writeDelayTimer 4#4 ∧
    decode 0b1111010000011000#16 = .writeSoundTimer 4#4 := by decide

theorem test_decode_default :
    decode 0x0123#16 = .defaultOp 0x0123#16 ∧ decode 0x8008#16 = .defaultOp 0x8008#16 ∧
    decode 0xF030#16 = .defaultOp 0xF030#16 := by decide

theorem test_decodeTableWord : decodeTableWord 16 0x8236 = some (.shiftRight 2#4 3#4) := by decide

/-! ### Control flow (95_test_vectors T40) -/

/-- T40.1. -/
theorem test_return :
    after (run { State.reset with pc := 0x310, stack := [0x202] } 0x00EE) (fun t => t.pc == 0x202 && t.stack == []) = true := by decide

/-- T40.2. -/
theorem test_return_underflow :
    after (run State.reset 0x00EE) (fun t => t.fault == some ⟨.stackUnderflow, 0x202⟩ && t.pc == 0x202) = true := by decide

/-- T40.5. -/
theorem test_jump :
    after (run State.reset 0x1333) (fun t => t.pc == 0x333) = true := by decide

/-- T40.7. -/
theorem test_call :
    after (run { State.reset with pc := 0xFFE } 0x2300) (fun t => t.stack == [0x1000] && t.pc == 0x300) = true := by decide

/-- T40.8. -/
theorem test_call_overflow :
    after (run (withParams .wrap12 (some 1) { State.reset with pc := 0x400, stack := [0x202] }) 0x2300) (fun t => t.fault == some ⟨.stackOverflow, 0x402⟩ && t.stack == [0x202] && t.pc == 0x402) = true := by decide

/-- T40.10. -/
theorem test_skipEqualVal :
    after (run (regs [(2, 0x2B)]) 0x322A) (fun t => t.pc == 0x202) = true := by decide

/-- T40.11b. -/
theorem test_skipEqualVal_wraps :
    after (run { regs [(0xF, 1)] with pc := 0xFFFE } 0x3F01) (fun t => t.pc == 0x0002) = true := by decide

/-- T40.12. -/
theorem test_skipNotEqualVal :
    after (run (regs [(2, 0x2A)]) 0x422A) (fun t => t.pc == 0x202) = true := by decide

/-- T40.13. -/
theorem test_skipEqualReg :
    after (run (regs [(1, 7), (3, 7)]) 0x5130) (fun t => t.pc == 0x204) = true := by decide

/-- T40.16. -/
theorem test_skipNotEqualReg :
    after (run (regs [(1, 7), (3, 8)]) 0x9130) (fun t => t.pc == 0x204) = true := by decide

/-- T40.17. -/
theorem test_skipNotEqualReg_same :
    after (run (regs [(1, 7)]) 0x9110) (fun t => t.pc == 0x202) = true := by decide

/-- T40.20. -/
theorem test_jumpWithOffset :
    after (run (regs [(0, 0xFF)]) 0xBFFF) (fun t => t.pc == 0x10FE) = true := by decide

/-- T40.19. -/
theorem test_jumpWithOffset_quirk :
    after (run (allQuirks (regs [(0, 0x10), (3, 5)])) 0xB300) (fun t => t.pc == 0x305) = true := by decide

/-! ### Register and arithmetic (T41) -/

/-- T41.2. -/
theorem test_setRegVal :
    after (run State.reset 0x6F42) (fun t => vals t [0xF] == [0x42] && t.pc == 0x202) = true := by decide

/-- T41.4. -/
theorem test_addWithoutCarry :
    after (run (regs [(1, 0xFF)]) 0x7101) (fun t => vals t [1, 0xF] == [0, 0]) = true := by decide

/-- T41.6. -/
theorem test_setRegReg :
    after (run (regs [(4, 0x9C)]) 0x8340) (fun t => vals t [3, 4] == [0x9C, 0x9C]) = true := by decide

/-- T41.7. -/
theorem test_binOR :
    after (run (regs [(0, 0xF0), (1, 0x0C), (0xF, 0x55)]) 0x8011) (fun t => vals t [0, 0xF] == [0xFC, 0x55]) = true := by decide

/-- T41.8. -/
theorem test_binAND :
    after (run (regs [(0, 0xF0), (1, 0x3C)]) 0x8012) (fun t => vals t [0] == [0x30]) = true := by decide

/-- T41.9. -/
theorem test_binXOR :
    after (run (regs [(0, 0xF0), (1, 0x3C)]) 0x8013) (fun t => vals t [0] == [0xCC]) = true := by decide

/-- T41.12. -/
theorem test_addWithCarry_no_carry :
    after (run (regs [(0, 0x80), (1, 0x7F)]) 0x8014) (fun t => vals t [0, 0xF] == [0xFF, 0]) = true := by decide

/-- T41.14. -/
theorem test_addWithCarry_to_VF :
    after (run (regs [(0xF, 0x10), (1, 5)]) 0x8F14) (fun t => vals t [0xF] == [0]) = true := by decide

/-- T41.17. -/
theorem test_subtract_borrow :
    after (run (regs [(0, 3), (1, 5)]) 0x8015) (fun t => vals t [0, 0xF] == [0xFE, 0]) = true := by decide

/-- T41.18. -/
theorem test_subtract_equal :
    after (run (regs [(0, 7), (1, 7)]) 0x8015) (fun t => vals t [0, 0xF] == [0, 1]) = true := by decide

/-- T41.20. -/
theorem test_subtractNegate :
    after (run (regs [(0, 3), (1, 5)]) 0x8017) (fun t => vals t [0, 0xF] == [2, 1]) = true := by decide

/-- T41.21. -/
theorem test_subtractNegate_borrow :
    after (run (regs [(0, 5), (1, 3)]) 0x8017) (fun t => vals t [0, 0xF] == [0xFE, 0]) = true := by decide

/-- T41.23. -/
theorem test_shiftRight :
    after (run (regs [(2, 0x81), (3, 6)]) 0x8236) (fun t => vals t [2, 3, 0xF] == [0x40, 6, 1]) = true := by decide

/-- T41.26. -/
theorem test_shiftRight_quirk :
    after (run (allQuirks (regs [(1, 0), (0xF, 5)])) 0x81F6) (fun t => vals t [1, 0xF] == [2, 1]) = true := by decide

/-- T41.27. -/
theorem test_shiftLeft :
    after (run (regs [(2, 0x81), (3, 6)]) 0x823E) (fun t => vals t [2, 0xF] == [2, 1]) = true := by decide

/-- T41.28. -/
theorem test_shiftLeft_quirk :
    after (run (allQuirks (regs [(2, 0x81), (3, 6)])) 0x823E) (fun t => vals t [2, 0xF] == [0x0C, 0]) = true := by decide

/-- R183: the draw, whatever it is, masked by NN. -/
theorem test_generateRandomNumber :
    exec (.generateRandomNumber 0 0x0F) State.reset =
      .next { State.reset.setReg 0 (randByte 0 &&& 0x0F#8) with randCount := 1 } := rfl

/-! ### Index and memory (T42) -/

/-- T42.1. -/
theorem test_setIndex :
    after (run State.reset 0xA050) (fun t => t.i == 0x050) = true := by decide

/-- T42.2. -/
theorem test_addToIndex :
    after (run { regs [(1, 3)] with i := 0xFFE } 0xF11E) (fun t => t.i == 0x1001 && vals t [0xF] == [1]) = true := by decide

/-- T42.4. -/
theorem test_addToIndex_keeps_VF :
    after (run { regs [(1, 3), (0xF, 0x77)] with i := 0x200 } 0xF11E) (fun t => t.i == 0x203 && vals t [0xF] == [0x77]) = true := by decide

/-- T42.9. -/
theorem test_fontCharacter :
    after (run (regs [(0, 0x3F)]) 0xF029) (fun t => t.i == 0x09B) = true := by decide

/-- T42.13. -/
theorem test_bcd_wraps :
    after (run { regs [(3, 0xFF)] with i := 0xFFE } 0xF333) (fun t => bytes t 0xFFE 2 ++ bytes t 0 2 == [2, 5, 5, 0]) = true := by decide

/-- T42.14. -/
theorem test_bcd_fault :
    after (run (withParams .fault none { regs [(3, 0xFF)] with i := 0xFFE }) 0xF333) (fun t => t.fault == some ⟨.memOutOfRange, 0x1000⟩ && bytes t 0xFFE 2 == [0, 0] && t.pc == 0x202) = true := by decide

/-- T42.17. -/
theorem test_store :
    after (run (allQuirks { regs [(0, 1), (1, 2), (2, 3)] with i := 0x300 }) 0xF255) (fun t => bytes t 0x2FF 5 == [0, 1, 2, 3, 0] && t.i == 0x303) = true := by decide

/-- T42.20. -/
theorem test_store_fault :
    after (run (withParams .fault none (allQuirks { regs [(0, 0x10), (7, 0x17)] with i := 0xFF8 })) 0xFF55) (fun t => t.fault == some ⟨.memOutOfRange, 0x1000⟩ && bytes t 0xFF8 8 == [0, 0, 0, 0, 0, 0, 0, 0] && t.i == 0xFF8) = true := by decide

/-- T42.21. -/
theorem test_load :
    after (run { State.reset with i := 0x300, mem := [(0x300, 2), (0x301, 5), (0x302, 4), (0x303, 9)] } 0xF265) (fun t => vals t [0, 1, 2, 3] == [2, 5, 4, 0] && t.i == 0x300) = true := by decide

/-- T42.23. -/
theorem test_load_VF :
    after (run { State.reset with i := 0x300, mem := [(0x30F, 0x99)] } 0xFF65) (fun t => vals t [0, 0xE, 0xF] == [0, 0, 0x99]) = true := by decide

/-! ### Display (T43) -/

/-- T43.1. -/
theorem test_clearScreen :
    after (run { regs [(0xF, 7)] with fb := FrameBuffer.setPixel State.reset.fb 63 31 true } 0x00E0) (fun t => litCount t [31] == 0 && vals t [0xF] == [7]) = true := by decide

/-- T43.2. -/
theorem test_draw_wraps_columns :
    after (run { regs [(0, 60)] with i := 0x300, mem := [(0x300, 0xFF)] } 0xD011) (fun t => lit t [(60, 0), (63, 0), (0, 0), (3, 0)] && litCount t [0, 1] == 8 && vals t [0xF] == [0]) = true := by decide

/-- T43.5. -/
theorem test_draw_wraps_rows :
    after (run { regs [(1, 31)] with i := 0x300, mem := [(0x300, 0x80), (0x301, 0x80)] } 0xD012) (fun t => lit t [(0, 31), (0, 0)] && litCount t [31, 0, 1] == 2) = true := by decide

/-- T43.3: the sprite of T43.2 over itself: row 0 is clear and VF is 1. -/
theorem test_draw_erases :
    after (run { regs [(0, 60)] with i := 0x300, mem := [(0x300, 0xFF)] } 0xD011)
      (fun t => after (exec (.draw 0 1 1) t) (fun u => litCount u [0] == 0 && vals u [0xF] == [1])) = true := by decide

/-! ### Keypad and timers (T44) -/

/-- T44.1. -/
theorem test_skipIfKeyPressed :
    after (run { regs [(5, 0x0A)] with keys := State.reset.keys.set 10 true } 0xE59E) (fun t => t.pc == 0x204) = true := by decide

/-- T44.2. -/
theorem test_skipIfKeyPressed_up :
    after (run (regs [(5, 0x0A)]) 0xE59E) (fun t => t.pc == 0x202) = true := by decide

/-- T44.3. -/
theorem test_skipIfKeyNotPressed :
    after (run (regs [(5, 0x0A)]) 0xE5A1) (fun t => t.pc == 0x204) = true := by decide

/-- T44.4. -/
theorem test_skipIfKeyNotPressed_down :
    after (run { regs [(5, 0x0A)] with keys := State.reset.keys.set 10 true } 0xE5A1) (fun t => t.pc == 0x202) = true := by decide

/-- T44.5. -/
theorem test_readDelayTimer :
    after (run { State.reset with dt := 0x3C } 0xF407) (fun t => vals t [4] == [0x3C] && t.dt == 0x3C) = true := by decide

/-- T44.6. -/
theorem test_writeDelayTimer :
    after (run (regs [(4, 0x3C)]) 0xF415) (fun t => t.dt == 0x3C && t.st == 0) = true := by decide

/-- T44.7. -/
theorem test_writeSoundTimer :
    after (run (regs [(4, 0x10)]) 0xF418) (fun t => t.st == 0x10 && t.dt == 0) = true := by decide

/-- T44.10. -/
theorem test_getKey_waits :
    after (run { State.reset with pc := 0xFFFE } 0xF30A) (fun t => t.pc == 0xFFFE && vals t [3] == [0]) = true := by decide

/-- T44.9. -/
theorem test_getKey_reads :
    after (run { State.reset with freshKey := some 7 } 0xF30A) (fun t => t.pc == 0x202 && vals t [3] == [7] && t.freshKey == some 7) = true := by decide

/-! ### The fallback (T45) and fetch (T30) -/

/-- T45.4. -/
theorem test_defaultOp :
    after (run State.reset 0x0123) (fun t => t.pc == 0x202 && t.diagLog == [.unimplementedInstruction 0x0123 0x200]) = true := by decide

/-- T30.1. -/
theorem test_fetch_wraps :
    after (run { State.reset with pc := 0xFFF } 0x6005) (fun t => vals t [0] == [5] && t.pc == 0x1001) = true := by decide

/-- T30.2. -/
theorem test_fetch_fault :
    after (step (withParams .fault none { State.reset with pc := 0xFFF, mem := [(0, 5), (0xFFF, 0x60)] }))
      (fun t => t.fault == some ⟨.memOutOfRange, 0x1000⟩ && t.pc == 0xFFF && vals t [0] == [0]) = true := by decide

/-- T30.3. -/
theorem test_fetch_clamps :
    after (step (withParams .clamp12 none { State.reset with pc := 0xFFF, mem := [(0, 5), (0xFFF, 0x60)] }))
      (fun t => vals t [0] == [0x60] && t.pc == 0x1001) = true := by decide

/-! ### Host events (T60, T70) -/

/-- T60.1, T60.2. -/
theorem test_frame :
    after (step { State.reset with dt := 5, st := 1, freshKey := some 3, script := [.frame] })
      (fun t => t.dt == 4 && t.st == 0 && t.freshKey == none) = true ∧
    after (step { State.reset with script := [.frame] }) (fun t => t.dt == 0 && t.st == 0) = true := by decide

/-- T60.3, T60.4. -/
theorem test_keys :
    after (step { State.reset with keys := State.reset.keys.set 7 true, freshKey := some 3, script := [.keyUp 7] })
      (fun t => !t.keys[7] && t.freshKey == some 7) = true ∧
    after (step { State.reset with script := [.keyDown 7] }) (fun t => t.keys[7] && t.freshKey == none) = true := by
  decide

/-- T60.5, T60.6. -/
theorem test_tick_not_admitted :
    step { State.reset with run := .idle } = .refused .tickBeforeInit ∧
    step { State.reset with fault := some ⟨.stackUnderflow, 0x202⟩ } =
      .fault (.stuckAfterFault ⟨.stackUnderflow, 0x202⟩) := ⟨rfl, rfl⟩

/-- The host's timer writes (10_state R44). -/
theorem test_host_timer_writes :
    after (step { State.reset with st := 3, script := [.setDelay 9] }) (fun t => t.dt == 9 && t.st == 3) = true ∧
    after (step { State.reset with dt := 3, script := [.setSound 9] }) (fun t => t.dt == 3 && t.st == 9) = true := by
  decide

/-- P7's end with `MEM_OOB = Fault`: at a jump to itself, but faulted, so no end (60_exceptions R337). -/
theorem test_faulted_self_jump_is_no_end :
    (State.atSelfJump { State.reset.withFetchWord 16 0x1200 with fault := some ⟨.memOutOfRange, 0x1001⟩ }) = false ∧
    (endAtSelfJump [.tick] { State.reset.withFetchWord 16 0x1200 with fault := some ⟨.memOutOfRange, 0x1001⟩ }).isSome =
      false ∧
    (endAfter [.frame] { State.reset with fault := some ⟨.memOutOfRange, 0x1001⟩ }).isSome = false := by decide

/-- The end comes after a tick, not at the first sight of the self-jump (R337). -/
theorem test_end_at_self_jump :
    (endAtSelfJump [.frame] (State.reset.withFetchWord 16 0x1200)).isSome = false ∧
    (endAtSelfJump [.frame, .tick] (State.reset.withFetchWord 16 0x1200)).isSome = true ∧
    (endAfter [.tick] (State.reset.withFetchWord 16 0x6005)).isSome = true := by decide

/-- T70.1. -/
theorem test_init :
    after (step { regs [(0, 0xFF), (0xF, 0xFF)] with
        i := 0x123, pc := 0x456, stack := [0x202, 0x300], dt := 9, st := 9, mem := [(0x300, 0xAB)],
        run := .idle, script := [.init] })
      (fun t => vals t [0, 0xF] == [0, 0] && t.i == 0 && t.pc == 0x200 && t.stack == [] && t.dt == 0 && t.st == 0 &&
        bytes t 0x300 1 == [0xAB]) = true := by decide

/-- S8: the font is at 0x050, glyph A at 0x082 (10_state R50). -/
theorem test_font : bytes State.reset 0x082 5 = [0xF0, 0x90, 0xF0, 0x90, 0x90] := by decide

/-! ### Witnesses: for each statement with hypotheses, values that meet them, one per clause and at its boundary -/

/-- A running state with `MEM_OOB = Fault` and I at a value. -/
def strict (i : Word) : State := withParams .fault none { State.reset with i := i }

theorem witness_DecodeOfEncode :
    (Instr.jumpWithOffset 0x300#12 0x3#4).WF = true ∧ (Instr.defaultOp 0x5121#16).WF = true := by decide

theorem witness_DecodeFollowsOpcodeMap :
    (∃ r ∈ opcodeMap, r.matchesWord 0x8236#16 = true) ∧ ∀ r ∈ opcodeMap, r.matchesWord 0x5121#16 = false := by decide

/-- One word of each of the six ranges, and one at each range's edge that is not in it. -/
theorem witness_UnrecognizedWords :
    decode 0x00E1#16 = .defaultOp 0x00E1#16 ∧ decode 0x5001#16 = .defaultOp 0x5001#16 ∧
    decode 0x8008#16 = .defaultOp 0x8008#16 ∧ decode 0x900F#16 = .defaultOp 0x900F#16 ∧
    decode 0xE09F#16 = .defaultOp 0xE09F#16 ∧ decode 0xFFFF#16 = .defaultOp 0xFFFF#16 ∧
    decode 0x1000#16 = .jump 0#12 ∧ decode 0x5000#16 = .skipEqualReg 0#4 0#4 := by decide

theorem witness_BytesDecodeInOrder :
    (Instr.jump 0x234#12).WF = true ∧ ([] : List Byte).length < 2 ∧ [0x12#8].length < 2 := by decide

/-- With an empty script and with a tick to come; at the last address of memory, whose second byte wraps. -/
theorem witness_StepRunsDecodedInstruction :
    ∀ l ∈ [[], [HostEvent.tick, .frame]],
      let s : State := { State.reset with pc := 0xFFF, mem := [(0, 5), (0xFFF, 0x60)], script := l }
      s.run = .running ∧ s.fault = none ∧ resolve s.params.memOob s.pc.toNat = .ok 0xFFF ∧
      resolve s.params.memOob (s.pc.toNat + 1) = .ok 0 ∧
      decode (wordOfBytes (Memory.read s.mem 0xFFF) (Memory.read s.mem 0)) = .setRegVal 0 5 := by
  intro l hl
  simp only [List.mem_cons, List.not_mem_nil, or_false] at hl
  rcases hl with rfl | rfl <;> exact ⟨rfl, rfl, rfl, rfl, rfl⟩

/-- The last word of memory under `Fault`, and the last address of PC under `Wrap12`. -/
theorem witness_FetchIsBigEndian :
    Reachable { strict 0 with pc := 0xFFE } 0xFFE 2 ∧ Reachable { State.reset with pc := 0xFFFF } 0xFFFF 2 :=
  ⟨fun _ => .inr (by decide), fun h => by simp [State.reset, Params.default] at h⟩

theorem witness_FetchFaultChangesOnlyFault :
    ∀ p ∈ [0xFFF#16, 0x1000#16, 0xFFFF#16],
      let s : State := { strict 0 with pc := p }
      s.run = .running ∧ s.fault = none ∧ s.script = [] ∧ s.params.memOob = .fault ∧ 0xFFF < s.pc.toNat + 1 := by
  intro p hp
  simp only [List.mem_cons, List.not_mem_nil, or_false] at hp
  rcases hp with rfl | rfl | rfl <;> exact ⟨rfl, rfl, rfl, rfl, by decide⟩

theorem witness_TickAdmission :
    ({ State.reset with run := .idle } : State).run = .idle ∧
    ({ State.reset with fault := some ⟨.stackOverflow, 1⟩ } : State).fault = some ⟨.stackOverflow, 1⟩ ∧
    State.reset.run = .running ∧ State.reset.fault = none := ⟨rfl, rfl, rfl, rfl⟩

/-- `jump 0x200` at 0x200 (95_test_vectors P1–P8 end so), and at the top of memory. -/
theorem witness_SelfJumpIsFixedPoint :
    (State.reset.withFetchWord 16 0x1200).atSelfJump = true ∧
    ({ State.reset with pc := 0xFFF }.withFetchWord 16 0x1FFF).atSelfJump = true := by decide

theorem witness_ResolveThenAccess : 0xFFF ≤ 0xFFF ∧ 0xFFF < 0x1000 := by decide

theorem witness_CanonicalMemoryIsUnique :
    Memory.wf (Memory.write [] 0x300 7) = true ∧ Memory.wf [(0x300, 7)] = true ∧
    ∀ a, Memory.read (Memory.write [] 0x300 7) a = Memory.read [(0x300, 7)] a :=
  ⟨by decide, by decide, fun _ => rfl⟩

/-- The lowest failing I of each clause. -/
theorem witness_BadAccessChangesOnlyFault :
    (strict 0xFFE).params.memOob = .fault ∧ 0xFFF < (strict 0xFFE).i.toNat + 2 ∧
    0xFFF < (strict 0xFF1).i.toNat + (15#4).toNat ∧ 0xFFF < (strict 0x1000).i.toNat + (0#4).toNat ∧
    1 ≤ (2#4).toNat ∧ 0xFFF < (strict 0xFFF).i.toNat + (2#4).toNat - 1 := by decide

/-- X = 0xF, the destination the flag replaces, and X = 0xE, the last one it does not. -/
theorem witness_AluFlagClauses : (0xE#4 : Nibble) ≠ 0xF#4 ∧ 0x10 + 5 ≤ 255 ∧ 0x80 + 0x80 > 255 := by decide

theorem witness_SkipOnRegisters : (0x1#4 : Nibble) ≠ 0x0#4 := by decide

theorem witness_ShiftSources :
    (6#8 = if (allQuirks (regs [(2, 0x81), (3, 6)])).quirks.shiftVY
      then (allQuirks (regs [(2, 0x81), (3, 6)])).reg 3 else (allQuirks (regs [(2, 0x81), (3, 6)])).reg 2) ∧
    (0x81#8 = if (regs [(2, 0x81), (3, 6)]).quirks.shiftVY
      then (regs [(2, 0x81), (3, 6)]).reg 3 else (regs [(2, 0x81), (3, 6)]).reg 2) := by decide

/-- One free place below the limit, no limit, and the limit reached. -/
theorem witness_CallPushesReturnAddress :
    (withParams .wrap12 (some 1) State.reset).params.stackLimit ≠ some State.reset.stack.length ∧
    State.reset.params.stackLimit ≠ some State.reset.stack.length ∧
    (withParams .wrap12 (some 1) { State.reset with stack := [0x202] }).params.stackLimit =
      some [0x202#16].length := by decide

theorem witness_ReturnPopsPc :
    ({ State.reset with stack := [0x202, 0x1234] } : State).stack = [0x202#16] ++ [0x1234#16] ∧
    State.reset.stack = [] := by decide

/-- The state the call leaves has the stack the call left. -/
theorem witness_ReturnUndoesCall :
    State.reset.params.stackLimit ≠ some State.reset.stack.length ∧
    after (exec (.callSubroutine 0x300) State.reset) (fun t => t.stack == [0x200]) = true := by decide

/-- The last I that fits and the first that does not. -/
theorem witness_BcdStoresDigits :
    Reachable (strict 0xFFD) (strict 0xFFD).i.toNat 3 ∧ (strict 0xFFE).params.memOob = .fault ∧
    0xFFF < (strict 0xFFE).i.toNat + 2 := ⟨fun _ => .inr (by decide), rfl, by decide⟩

/-- Sixteen registers at the last I that fits and the first that does not; sixteen resolved addresses that differ. -/
theorem witness_StoreRegistersWritesMemory :
    Reachable (strict 0xFF0) (strict 0xFF0).i.toNat ((15#4).toNat + 1) ∧
    (∀ j ≤ (15#4).toNat, 14 < j → 0xFF0 + j ≠ 0xFF0 + 14) ∧ (strict 0xFF1).params.memOob = .fault ∧
    0xFFF < (strict 0xFF1).i.toNat + (15#4).toNat :=
  ⟨fun _ => .inr (by decide), fun _ _ h => by omega, rfl, by decide⟩

theorem witness_LoadRegistersReadsMemory :
    Reachable (strict 0xFFF) (strict 0xFFF).i.toNat ((0#4).toNat + 1) ∧ (strict 0x1000).params.memOob = .fault ∧
    0xFFF < (strict 0x1000).i.toNat + (0#4).toNat := ⟨fun _ => .inr (by decide), rfl, by decide⟩

/-- A sprite whose bit meets a lit pixel. -/
def spriteState : State :=
  { State.reset with i := 0x300, mem := [(0x300, 0x80)], fb := FrameBuffer.setPixel State.reset.fb 0 0 true }

/-- The last I that fits a row, a sprite of no rows anywhere, a collision, a sprite that meets no lit pixel, and the
first I that does not fit. -/
theorem witness_DrawXorsSprite :
    Reachable (strict 0xFFF) (strict 0xFFF).i.toNat (1#4).toNat ∧
    Reachable (strict 0xFFFF) (strict 0xFFFF).i.toNat (0#4).toNat ∧
    (FrameBuffer.pixel spriteState.fb 0 0 = true ∧ spriteBit spriteState 0 1 1 0 0 = true) ∧
    (∀ c r, FrameBuffer.pixel spriteState.fb c r = true → spriteBit spriteState 0 1 0 c r = false) ∧
    (strict 0x1000).params.memOob = .fault ∧ 1 ≤ (1#4).toNat ∧ 0xFFF < (strict 0x1000).i.toNat + (1#4).toNat - 1 := by
  refine ⟨fun _ => .inr (by decide), fun _ => .inl (by decide), by decide, fun c r _ => ?_, rfl, by decide, by decide⟩
  simp [spriteBit]

theorem witness_DrawTwiceErases :
    (0#4 : Nibble) ≠ 0xF#4 ∧ (1#4 : Nibble) ≠ 0xF#4 ∧ Reachable spriteState spriteState.i.toNat (1#4).toNat :=
  ⟨by decide, by decide, fun h => by simp [spriteState, State.reset, Params.default] at h⟩

/-- The last key code, and the first code above. -/
theorem witness_KeySkipsFollowKeys :
    State.reset.keys[((regs [(5, 15)]).reg 5).toNat]? = some false ∧ 16 ≤ ((regs [(5, 16)]).reg 5).toNat := by decide

theorem witness_GetKeyRewindsOrReads :
    State.reset.freshKey = none ∧ ({ State.reset with freshKey := some 0xF } : State).freshKey = some 0xF#4 :=
  ⟨rfl, rfl⟩

theorem witness_DefaultOpOnlyLogs :
    recognized 0x5121#16 = false ∧ ({ State.reset with pc := 0 } : State).pc = 0xFFFE#16 + 2#16 := by decide

theorem witness_HostEventScripts :
    ∀ e ∈ [HostEvent.frame, .writeQuirks ⟨true, false, true⟩, .memWrite 0xFFF 7, .setDelay 9,
        .setSound 9, .init],
      ({ State.reset with script := [e] } : State).script = e :: [] := fun _ _ => rfl

theorem witness_OnlyInitStartsTheCore :
    (after (step State.reset) (fun t => t.run == .running) = true) ∧
    after (step { State.reset with run := .idle, script := [.init] }) (fun t => t.run == .running) = true ∧
    ({ State.reset with script := [.init] } : State).run = .running := by decide

/-- A frame after a fault. -/
theorem witness_FaultIsFinal :
    after (step { State.reset with fault := some ⟨.stackUnderflow, 0x202⟩, script := [.frame] })
      (fun t => t.fault == some ⟨.stackUnderflow, 0x202⟩) = true := by decide

theorem witness_LaunchState : ([] : List Byte).length ≤ 3584 ∧ (List.replicate 3584 0#8).length ≤ 3584 :=
  ⟨Nat.zero_le _, by rw [List.length_replicate]⟩

/-- The addresses at the edges of the font and of a two-byte ROM that neither holds. -/
theorem witness_LaunchState_rest :
    ∀ a ∈ [0x000, 0x04F, 0x0A0, 0x1FF, 0x202, 0xFFF],
      a < 4096 ∧ ¬ (0x050 ≤ a ∧ a < 0x0A0) ∧ ¬ (0x200 ≤ a ∧ a < 0x200 + [0x12#8, 0x00#8].length) := by decide

theorem witness_ResetIsDefaultLaunch : 3584 < (List.replicate 3585 0#8).length := by
  rw [List.length_replicate]; omega

theorem witness_LaunchMeetsInv : ∃ t, launch LaunchParams.default [0x12, 0x00] = some t := ⟨_, rfl⟩

/-- A state with a stored byte and a full stack. -/
def fullStack : State :=
  withParams .wrap12 (some 1) { State.reset with stack := [0x202], mem := [(0x200, 0x22), (0x300, 7)] }

/-- The call at 0x200 overflows the stack, and the record of that is truthful. -/
theorem witness_StepKeepsInv :
    fullStack.Inv ∧ after (step fullStack) (fun t => t.fault == some ⟨.stackOverflow, 0x202⟩) = true := by
  refine ⟨⟨by decide, by decide, fun n h => ?_, fun h => ?_, fun r h => ?_⟩, by decide⟩
  · cases h; decide
  · cases h
  · cases h

/-- A store with `Q_INC_I` false and I; a three-byte store at 0x300 and the bytes beside it; a store that cannot be resolved
and the byte that could. -/
theorem witness_EveryInstructionKeepsItsFrame :
    (∃ t, exec (.storeRegisters 2) State.reset = .next t) ∧
    mayWrite State.reset (.storeRegisters 2) .index = false ∧
    [0x2FF, 0x300, 0x302, 0x303].map (fun a => mayWrite { State.reset with i := 0x300 } (.bcdConvert 3) (.byte a)) =
      [false, true, true, false] ∧
    mayWrite (strict 0xFFE) (.bcdConvert 3) (.byte 0xFFE) = false := ⟨⟨_, rfl⟩, by decide, by decide, by decide⟩

theorem witness_TicksLeaveTimers :
    after (run (regs [(4, 0x3C)]) 0xF415) (fun t => t.dt == 0x3C) = true ∧
    after (run (regs [(4, 0x3C)]) 0xF418) (fun t => t.st == 0x3C) = true := by decide

theorem witness_NothingReadsLogOrSound : ∃ t, tick State.reset = .next t := ⟨_, rfl⟩

theorem witness_OnlyGatedInstructionsReadQuirks :
    quirkGated (.bcdConvert 3) = false ∧ ∃ t, exec (.bcdConvert 3) State.reset = .next t := ⟨rfl, ⟨_, rfl⟩⟩

theorem witness_ScriptRunsReferenceQuantum :
    State.reset.script = [] ∧
    ∃ t, Sys2Proof.core.run (1 + 1) { State.reset with script := referenceScript ⟨1, Nat.le_refl 1⟩ 1 } = .next t := ⟨rfl, ⟨_, rfl⟩⟩

end Sys2Proof.Tests
end

/-! The invariant of a run is kept by every step (00_scope R8; 10_state R40, R41, R48; 60_exceptions R300, R301): what an
instruction can do to the parts of the state the invariant reads is said once, as `InvEffect`, and the step lemma is assembled
from `tick_cases` and `step_cases`. -/
namespace Sys2Proof.Machine

/-! ### The parts of the state the invariant reads -/

/-- `t` holds what `s` holds in every part the invariant reads, but PC, which only a recorded fault speaks of. -/
structure SameInvParts (s t : State) : Prop where
  mem : t.mem = s.mem
  stack : t.stack = s.stack
  params : t.params = s.params
  run : t.run = s.run
  fault : t.fault = s.fault

theorem SameInvParts.trans {s t u : State} (h : SameInvParts s t) (h' : SameInvParts t u) : SameInvParts s u :=
  ⟨h'.mem.trans h.mem, h'.stack.trans h.stack, h'.params.trans h.params, h'.run.trans h.run, h'.fault.trans h.fault⟩

/-- What a fault record says depends on the stack, PC and the parameters alone. -/
theorem FaultRecord.truthful_congr {r : FaultRecord} {s t : State} (hstack : t.stack = s.stack)
    (hparams : t.params = s.params) (hpc : t.pc = s.pc) : r.truthful t ↔ r.truthful s := by
  simp only [FaultRecord.truthful, hstack, hparams, hpc]

/-- The invariant moves to a state with the same parts; PC may differ where no fault is recorded. -/
theorem State.Inv.transfer {s t : State} (h : s.Inv) (e : SameInvParts s t) (hpc : s.fault = none ∨ t.pc = s.pc) :
    t.Inv where
  memory := e.mem ▸ h.memory
  limit := e.params ▸ h.limit
  depth := by rw [e.params, e.stack]; exact h.depth
  idleClean := by rw [e.run, e.fault]; exact h.idleClean
  recorded := fun r hr => by
    rw [e.fault] at hr
    rcases hpc with hf | hpc
    · rw [hf] at hr; cases hr
    · exact (FaultRecord.truthful_congr e.stack e.params hpc).2 (h.recorded r hr)

theorem State.Inv.setMem {s : State} (h : s.Inv) {m : Memory} (hm : Memory.wf m = true) :
    State.Inv { s with mem := m } where
  memory := hm
  limit := h.limit
  depth := h.depth
  idleClean := h.idleClean
  recorded := fun r hr => (FaultRecord.truthful_congr rfl rfl rfl).2 (h.recorded r hr)

/-- A new stack within the limit keeps the invariant where no fault speaks of the old one. -/
theorem State.Inv.setStack {s : State} (h : s.Inv) (hf : s.fault = none) {l : List Word}
    (hl : ∀ n, s.params.stackLimit = some n → l.length ≤ n) : State.Inv { s with stack := l } where
  memory := h.memory
  limit := h.limit
  depth := hl
  idleClean := h.idleClean
  recorded := fun r hr => by rw [show s.fault = some r from hr] at hf; cases hf

/-- A running core that records a truthful fault keeps the invariant (60_exceptions R301). -/
theorem State.Inv.setFault {s : State} (h : s.Inv) (hrun : s.run = .running) {r : FaultRecord} (ht : r.truthful s) :
    State.Inv { s with fault := some r } where
  memory := h.memory
  limit := h.limit
  depth := h.depth
  idleClean := fun hi => by rw [show s.run = .idle from hi] at hrun; cases hrun
  recorded := fun r' hr => by
    cases hr
    exact (FaultRecord.truthful_congr rfl rfl rfl).2 ht

/-! ### Every fault an operation raises is truthful -/

theorem State.push_error_truthful {s : State} {v : Word} {r : FaultRecord} (h : s.push v = .error r) :
    r.truthful s := by
  rcases s.push_cases v with ⟨hfull, hp⟩ | ⟨-, hp⟩ <;> rw [hp] at h <;> cases h
  exact ⟨hfull, rfl⟩

theorem State.pop_error_truthful {s : State} {r : FaultRecord} (h : s.pop = .error r) : r.truthful s := by
  rcases s.pop_cases with ⟨hempty, hp⟩ | ⟨rest, v, -, hp⟩ <;> rw [hp] at h <;> cases h
  exact ⟨hempty, rfl⟩

/-- The lowest bad address of a range with a 16-bit base is itself a 16-bit value (20_memory R75). -/
theorem State.memOutOfRange_truthful {s : State} (ho : s.params.memOob = .fault) (a : Word) :
    FaultRecord.truthful ⟨.memOutOfRange, max a.toNat 0x1000⟩ s := by
  have ha := a.isLt
  exact ⟨ho, by simp only; omega, by simp only; omega⟩

theorem State.resolveRange_error_truthful {s : State} {a : Word} {n : Nat} {r : FaultRecord}
    (h : s.resolveRange a.toNat n = .error r) : r.truthful s := by
  rcases s.resolveRange_cases a.toNat n with ⟨rs, hr, -⟩ | ⟨ho, -, hr⟩ <;> rw [hr] at h <;> cases h
  exact State.memOutOfRange_truthful ho a

theorem State.fetch_error_truthful {s : State} {r : FaultRecord} (h : s.fetch = .error r) : r.truthful s := by
  obtain ⟨ho, -, rfl⟩ := State.fetch_error h
  exact State.memOutOfRange_truthful ho s.pc

/-! ### What an instruction does to these parts -/

/-- Everything an instruction can do to the parts the invariant reads: nothing, a store to resolved addresses, a push below
the limit, a pop, or the record of a truthful fault. -/
inductive InvEffect (s : State) : State → Prop where
  | kept {t : State} (e : SameInvParts s t) : InvEffect s t
  | stored {t : State} {base n : Nat} {rs : List Nat} (bs : List Byte)
      (hrs : resolveFrom s.params.memOob base n = .ok rs) (e : SameInvParts (s.writeAll rs bs) t) : InvEffect s t
  | pushed {t : State} (v : Word) (hlim : s.params.stackLimit ≠ some s.stack.length)
      (e : SameInvParts { s with stack := s.stack ++ [v] } t) : InvEffect s t
  | popped {t : State} {rest : List Word} {v : Word} (hs : s.stack = rest ++ [v])
      (e : SameInvParts { s with stack := rest } t) : InvEffect s t
  | raised {r : FaultRecord} (ht : r.truthful s) : InvEffect s { s with fault := some r }

/-- An operation that may raise, then a continuation: both answers are effects. -/
theorem InvEffect.of_orRaise {α : Type} {s t : State} {e : Except FaultRecord α} {k : α → Result}
    (bad : ∀ {r}, e = .error r → r.truthful s) (ok : ∀ a, e = .ok a → k a = .next t → InvEffect s t)
    (h : orRaise s e k = .next t) : InvEffect s t := by
  rcases orRaise_cases h with ⟨r, he, rfl⟩ | ⟨a, he, hk⟩
  · exact .raised (bad he)
  · exact ok a he hk

theorem writeWithFlag_sameInvParts {s t : State} {x : Nibble} {result flag : Byte}
    (h : writeWithFlag s x result flag = .next t) : SameInvParts s t := by
  cases h; exact ⟨rfl, rfl, rfl, rfl, rfl⟩

theorem skipIf_sameInvParts {s t : State} {c : Bool} (h : skipIf c s = .next t) : SameInvParts s t := by
  cases h
  cases c <;> exact ⟨rfl, rfl, rfl, rfl, rfl⟩

theorem shiftSource_sameInvParts (s : State) (x y : Nibble) : SameInvParts s (shiftSource s x y) := by
  constructor <;> simp

theorem keyDown_sameInvParts (s : State) (k : Byte) : SameInvParts s (s.keyDown k).2 := by
  constructor <;> simp

theorem incIndex_sameInvParts (s : State) (base : Nat) (x : Nibble) : SameInvParts s (incIndex s base x) := by
  constructor <;> simp

theorem execReturnFromSubroutine_invEffect {s t : State} (h : execReturnFromSubroutine s = .next t) : InvEffect s t := by
  refine InvEffect.of_orRaise State.pop_error_truthful (fun p hp hk => ?_) h
  rcases s.pop_cases with ⟨-, hpop⟩ | ⟨rest, v, hs, hpop⟩ <;> rw [hpop] at hp <;> cases hp
  cases hk
  exact .popped hs ⟨rfl, rfl, rfl, rfl, rfl⟩

theorem execCallSubroutine_invEffect {s t : State} {nnn : Addr} (h : execCallSubroutine nnn s = .next t) :
    InvEffect s t := by
  refine InvEffect.of_orRaise State.push_error_truthful (fun u hu hk => ?_) h
  rcases s.push_cases s.pc with ⟨-, hpush⟩ | ⟨hlim, hpush⟩ <;> rw [hpush] at hu <;> cases hu
  cases hk
  exact .pushed s.pc hlim ⟨rfl, rfl, rfl, rfl, rfl⟩

/-- A range that resolved, as the operation's own `resolveFrom`. -/
theorem State.resolveFrom_of_resolveRange {s : State} {base n : Nat} {rs : List Nat}
    (h : s.resolveRange base n = .ok rs) : resolveFrom s.params.memOob base n = .ok rs := by
  rcases s.resolveRange_cases base n with ⟨rs', hr, hf⟩ | ⟨-, -, hr⟩ <;> rw [hr] at h <;> cases h
  exact hf

theorem execBcdConvert_invEffect {s t : State} {x : Nibble} (h : execBcdConvert x s = .next t) : InvEffect s t := by
  refine InvEffect.of_orRaise State.resolveRange_error_truthful (fun rs hrs hk => ?_) h
  cases hk
  exact .stored _ (State.resolveFrom_of_resolveRange hrs) ⟨rfl, rfl, rfl, rfl, rfl⟩

theorem execStoreRegisters_invEffect {s t : State} {x : Nibble} (h : execStoreRegisters x s = .next t) :
    InvEffect s t := by
  refine InvEffect.of_orRaise State.resolveRange_error_truthful (fun rs hrs hk => ?_) h
  cases hk
  exact .stored _ (State.resolveFrom_of_resolveRange hrs) (incIndex_sameInvParts ..)

theorem execLoadRegisters_invEffect {s t : State} {x : Nibble} (h : execLoadRegisters x s = .next t) :
    InvEffect s t := by
  refine InvEffect.of_orRaise State.resolveRange_error_truthful (fun rs _ hk => ?_) h
  cases hk
  exact .kept (by constructor <;> simp)

theorem execDraw_invEffect {s t : State} {x y n : Nibble} (h : execDraw x y n s = .next t) : InvEffect s t := by
  refine InvEffect.of_orRaise State.resolveRange_error_truthful (fun rs _ hk => ?_) h
  cases hk
  exact .kept ⟨rfl, rfl, rfl, rfl, rfl⟩

theorem execAddToIndex_sameInvParts {s t : State} {x : Nibble} (h : execAddToIndex x s = .next t) :
    SameInvParts s t := by
  cases h
  split <;> exact ⟨rfl, rfl, rfl, rfl, rfl⟩

theorem execGetKey_sameInvParts {s t : State} {x : Nibble} (h : execGetKey x s = .next t) : SameInvParts s t := by
  unfold execGetKey at h
  split at h <;> cases h <;> exact ⟨rfl, rfl, rfl, rfl, rfl⟩

/-- Every instruction that answers a state has one of the effects (10_state R41, R42; 20_memory R70, R75). -/
theorem exec_invEffect {i : Instr} {s t : State} (h : exec i s = .next t) : InvEffect s t := by
  cases i with
  | returnFromSubroutine => exact execReturnFromSubroutine_invEffect h
  | callSubroutine => exact execCallSubroutine_invEffect h
  | draw => exact execDraw_invEffect h
  | bcdConvert => exact execBcdConvert_invEffect h
  | storeRegisters => exact execStoreRegisters_invEffect h
  | loadRegisters => exact execLoadRegisters_invEffect h
  | skipEqualVal | skipNotEqualVal | skipEqualReg | skipNotEqualReg => exact .kept (skipIf_sameInvParts h)
  | skipIfKeyPressed | skipIfKeyNotPressed =>
    exact .kept ((keyDown_sameInvParts s _).trans (skipIf_sameInvParts h))
  | addWithCarry | subtract | subtractNegate => exact .kept (writeWithFlag_sameInvParts h)
  | shiftRight x y | shiftLeft x y =>
    exact .kept ((shiftSource_sameInvParts s x y).trans (writeWithFlag_sameInvParts h))
  | addToIndex => exact .kept (execAddToIndex_sameInvParts h)
  | getKey => exact .kept (execGetKey_sameInvParts h)
  | clearScreen | jump | jumpWithOffset | setRegVal | addWithoutCarry | setRegReg | binOR | binAND | binXOR | setIndex
  | generateRandomNumber | readDelayTimer | writeDelayTimer | writeSoundTimer | fontCharacter | defaultOp =>
    cases h; exact .kept ⟨rfl, rfl, rfl, rfl, rfl⟩

/-! ### The invariant along a tick, a host event and a step -/

/-- Each effect keeps the invariant of a running core with no recorded fault. -/
theorem InvEffect.inv {s t : State} (e : InvEffect s t) (h : s.Inv) (hrun : s.run = .running) (hf : s.fault = none) :
    t.Inv := by
  cases e with
  | kept e => exact h.transfer e (.inl hf)
  | stored bs hrs e => exact (h.setMem (writeAll_wf h.memory hrs bs)).transfer e (.inl hf)
  | pushed v hlim e =>
    have hdepth : ∀ n, s.params.stackLimit = some n → (s.stack ++ [v]).length ≤ n := fun n hn => by
      have hle := h.depth n hn
      have hne : n ≠ s.stack.length := fun hn' => hlim (hn' ▸ hn)
      simp only [List.length_append, List.length_singleton]
      omega
    exact (h.setStack hf hdepth).transfer e (.inl hf)
  | @popped t rest v hs e =>
    have hdepth : ∀ n, s.params.stackLimit = some n → rest.length ≤ n := fun n hn => by
      have hle := h.depth n hn
      simp only [hs, List.length_append] at hle
      omega
    exact (h.setStack hf hdepth).transfer e (.inl hf)
  | raised ht => exact h.setFault hrun ht

theorem tick_keeps_inv {s t : State} (h : s.Inv) (ht : tick s = .next t) : t.Inv := by
  obtain ⟨hrun, hf, ⟨r, hr, rfl⟩ | ⟨w, -, hx⟩⟩ := tick_cases ht
  · exact h.setFault hrun (State.fetch_error_truthful hr)
  · have hadv : s.advance.Inv := h.transfer ⟨rfl, rfl, rfl, rfl, rfl⟩ (.inl hf)
    exact (exec_invEffect hx).inv hadv hrun hf

/-- `init()` keeps the invariant: it is called in idle only, where no fault is recorded (70_reset_and_hazards R350). -/
theorem State.Inv.init {s : State} (h : s.Inv) (hidle : s.run = .idle) : s.init.Inv where
  memory := h.memory
  limit := h.limit
  depth := fun n _ => Nat.zero_le n
  idleClean := fun hi => by cases hi
  recorded := fun r hr => by rw [State.init_fault, h.idleClean hidle] at hr; cases hr

theorem HostMove.keeps_inv {s t : State} (h : s.Inv) (m : HostMove s t) : t.Inv := by
  cases m with
  | memory a b => exact h.setMem (memoryIoWrite_wf h.memory a b)
  | init hidle => exact h.init hidle
  | frame | keyDown | keyUp | quirks | delay | sound => exact h.transfer ⟨rfl, rfl, rfl, rfl, rfl⟩ (.inr rfl)

/-- Settles O55: a step is a tick or a host event, from a state that differs from `s` in its script alone; each keeps the
invariant. -/
theorem stepKeepsInv : Obligations.StepKeepsInv := by
  intro s t h hstep
  obtain ⟨u, hu, hmove⟩ := step_cases hstep
  have hinv : u.Inv := by
    rcases hu with rfl | ⟨rest, rfl⟩
    · exact h
    · exact h.transfer ⟨rfl, rfl, rfl, rfl, rfl⟩ (.inr rfl)
  rcases hmove with htick | hhost
  · exact tick_keeps_inv hinv htick
  · exact hhost.keeps_inv hinv

end Sys2Proof.Machine

/-! What every instruction may write (10_state R32, R38, R39, R44, R45, R51-R54; 20_memory R70; 60_exceptions R300): frames of
the updates of the state compose by `KeepsAllBut.trans`, and each instruction's frame is among the places of `mayWrite`. -/
namespace Sys2Proof.Machine

open Sys2Proof.Config

/-! ### Frames: how they compose, and one per update of the state -/

theorem SameHostSide.trans {s t u : State} (h : SameHostSide s t) (h' : SameHostSide t u) : SameHostSide s u :=
  ⟨h'.quirks.trans h.quirks, h'.keys.trans h.keys, h'.freshKey.trans h.freshKey, h'.run.trans h.run,
    h'.params.trans h.params, h'.script.trans h.script⟩

theorem Place.same_trans {p : Place} {s t u : State} (h : p.same s t) (h' : p.same t u) : p.same s u := by
  cases p with
  | screen => exact fun c r => (h' c r).trans (h c r)
  | _ => exact Eq.trans h' h

/-- One write after another keeps what both keep. -/
theorem KeepsAllBut.trans {ws ws' : List Place} {s t u : State} (h : KeepsAllBut ws s t) (h' : KeepsAllBut ws' t u) :
    KeepsAllBut (ws ++ ws') s u where
  host := h.host.trans h'.host
  places := fun p hp => by
    simp only [List.mem_append, not_or] at hp
    exact Place.same_trans (h.places p hp.1) (h'.places p hp.2)

/-- A frame of a write to neither V nor memory, field by field: each is as it was, or its place is listed. -/
theorem KeepsAllBut.of_fields {ws : List Place} {s t : State} (host : SameHostSide s t := by constructor <;> simp)
    (v : t.v = s.v := by simp) (mem : t.mem = s.mem := by simp)
    (i : t.i = s.i ∨ .index ∈ ws := by simp) (pc : t.pc = s.pc ∨ .pc ∈ ws := by simp)
    (stack : t.stack = s.stack ∨ .stack ∈ ws := by simp) (dt : t.dt = s.dt ∨ .dt ∈ ws := by simp)
    (st : t.st = s.st ∨ .st ∈ ws := by simp) (fb : t.fb = s.fb ∨ .screen ∈ ws := by simp)
    (log : t.diagLog = s.diagLog ∨ .log ∈ ws := by simp) (fault : t.fault = s.fault ∨ .fault ∈ ws := by simp)
    (rand : t.randCount = s.randCount ∨ .randCount ∈ ws := by simp)
    (key : t.keyCount = s.keyCount ∨ .keyCount ∈ ws := by simp) : KeepsAllBut ws s t where
  host := host
  places := fun p hp => by
    cases p with
    | reg k => exact State.reg_congr v k
    | byte a => exact congrArg (Memory.read · a) mem
    | index => exact i.resolve_right hp
    | pc => exact pc.resolve_right hp
    | stack => exact stack.resolve_right hp
    | dt => exact dt.resolve_right hp
    | st => exact st.resolve_right hp
    | screen => exact fun c r => congrArg (FrameBuffer.pixel · c r) (fb.resolve_right hp)
    | log => exact log.resolve_right hp
    | fault => exact fault.resolve_right hp
    | randCount => exact rand.resolve_right hp
    | keyCount => exact key.resolve_right hp

theorem KeepsAllBut.setReg (s : State) (x : Nibble) (b : Byte) : KeepsAllBut [.reg x] s (s.setReg x b) where
  host := ⟨rfl, rfl, rfl, rfl, rfl, rfl⟩
  places := fun p hp => by
    cases p with
    | reg k => exact State.reg_setReg_ne s b fun e => hp (by simp [e])
    | screen => exact fun _ _ => rfl
    | _ => rfl

/-- Loading a list into the registers from `k` on writes those registers alone (42_index_memory R215). -/
theorem KeepsAllBut.setRegsFrom (s : State) (k : Nat) (bs : List Byte) :
    KeepsAllBut ((List.range' k bs.length).map fun j => .reg (BitVec.ofNat 4 j)) s (s.setRegsFrom k bs) := by
  induction bs generalizing s k with
  | nil => exact .refl _ s
  | cons b bs ih => exact (KeepsAllBut.setReg s _ b).trans (ih _ (k + 1))

/-- A store writes the bytes at its addresses alone (20_memory R72). -/
theorem KeepsAllBut.writeAll (s : State) (rs : List Nat) (bs : List Byte) :
    KeepsAllBut (rs.map .byte) s (s.writeAll rs bs) where
  host := ⟨rfl, rfl, rfl, rfl, rfl, rfl⟩
  places := fun p hp => by
    cases p with
    | byte a => exact State.read_writeAll_ne s bs fun ha => hp (List.mem_map_of_mem ha)
    | screen => exact fun _ _ => rfl
    | _ => rfl

theorem KeepsAllBut.raise (s : State) (r : FaultRecord) : KeepsAllBut [.fault] s { s with fault := some r } :=
  .of_fields

theorem KeepsAllBut.skipIf (s : State) (c : Bool) : KeepsAllBut [.pc] s (if c then s.advance else s) := by
  cases c with
  | false => exact .refl _ s
  | true => exact .of_fields

theorem KeepsAllBut.keyDown (s : State) (k : Byte) : KeepsAllBut [.keyCount] s (s.keyDown k).2 := .of_fields

theorem KeepsAllBut.shiftSource (s : State) (x y : Nibble) : KeepsAllBut [.reg x] s (shiftSource s x y) := by
  unfold Machine.shiftSource
  split
  · exact .setReg s x _
  · exact .refl _ s

/-- The index increment writes I, and that only with `Q_INC_I` (42_index_memory R218). -/
theorem KeepsAllBut.incIndex (s : State) (base : Nat) (x : Nibble) :
    KeepsAllBut (if s.quirks.incI then [.index] else []) s (incIndex s base x) := by
  unfold Machine.incIndex
  split
  · exact .of_fields
  · exact .refl _ s

/-- The one place `KeepsAllBut.incIndex` lists, and when. -/
theorem mem_incIndex_places {b : Bool} {p : Place} (h : p ∈ if b then [Place.index] else []) :
    b = true ∧ p = .index := by
  cases b <;> simp_all

/-! ### The frame of each instruction -/

/-- The instruction's writes are among the places `mayWrite` gives it. -/
def KeepsFrame (i : Instr) (s t : State) : Prop := ∃ ws, KeepsAllBut ws s t ∧ ∀ p ∈ ws, mayWrite s i p = true

/-- An operation that may raise, in an instruction that may record a fault. -/
theorem KeepsFrame.of_orRaise {α : Type} {i : Instr} {s t : State} {e : Except FaultRecord α} {k : α → Result}
    (hfault : mayWrite s i .fault = true) (ok : ∀ a, e = .ok a → k a = .next t → KeepsFrame i s t)
    (h : orRaise s e k = .next t) : KeepsFrame i s t := by
  rcases orRaise_cases h with ⟨r, -, rfl⟩ | ⟨a, he, hk⟩
  · exact ⟨[.fault], .raise s r, by simpa using hfault⟩
  · exact ok a he hk

theorem execReturnFromSubroutine_keepsFrame {s t : State} (h : execReturnFromSubroutine s = .next t) :
    KeepsFrame .returnFromSubroutine s t := by
  refine .of_orRaise rfl (fun p hp hk => ?_) h
  rcases s.pop_cases with ⟨-, hpop⟩ | ⟨rest, v, -, hpop⟩ <;> rw [hpop] at hp <;> cases hp
  cases hk
  exact ⟨[.pc, .stack], .of_fields, by simp [mayWrite]⟩

theorem execCallSubroutine_keepsFrame {s t : State} {nnn : Addr} (h : execCallSubroutine nnn s = .next t) :
    KeepsFrame (.callSubroutine nnn) s t := by
  refine .of_orRaise rfl (fun u hu hk => ?_) h
  rcases s.push_cases s.pc with ⟨-, hpush⟩ | ⟨-, hpush⟩ <;> rw [hpush] at hu <;> cases hu
  cases hk
  exact ⟨[.pc, .stack], .of_fields, by simp [mayWrite]⟩

theorem execDraw_keepsFrame {s t : State} {x y n : Nibble} (h : execDraw x y n s = .next t) :
    KeepsFrame (.draw x y n) s t := by
  refine .of_orRaise rfl (fun rs _ hk => ?_) h
  cases hk
  exact ⟨[.screen] ++ [.reg 0xF#4], KeepsAllBut.trans .of_fields (.setReg _ 0xF#4 _), by simp [mayWrite]⟩

/-- The bytes a resolved store goes to are the ones `Place.isStored` names. -/
theorem Place.isStored_of_mem {s : State} {n a : Nat} {rs : List Nat} (hrs : s.resolveRange s.i.toNat n = .ok rs)
    (ha : a ∈ rs) : (Place.byte a).isStored s n = true := by
  simpa [Place.isStored, hrs] using ha

theorem execBcdConvert_keepsFrame {s t : State} {x : Nibble} (h : execBcdConvert x s = .next t) :
    KeepsFrame (.bcdConvert x) s t := by
  refine .of_orRaise rfl (fun rs hrs hk => ?_) h
  cases hk
  refine ⟨_, .writeAll s rs _, fun p hp => ?_⟩
  obtain ⟨a, ha, rfl⟩ := List.mem_map.1 hp
  simp [mayWrite, Place.isStored_of_mem hrs ha]

theorem execStoreRegisters_keepsFrame {s t : State} {x : Nibble} (h : execStoreRegisters x s = .next t) :
    KeepsFrame (.storeRegisters x) s t := by
  refine .of_orRaise rfl (fun rs hrs hk => ?_) h
  cases hk
  refine ⟨_, (KeepsAllBut.writeAll s rs _).trans (.incIndex _ _ _), fun p hp => ?_⟩
  rcases List.mem_append.1 hp with hp | hp
  · obtain ⟨a, ha, rfl⟩ := List.mem_map.1 hp
    simp [mayWrite, Place.isStored_of_mem hrs ha]
  · obtain ⟨hinc, rfl⟩ := mem_incIndex_places hp
    simp only [State.writeAll_quirks] at hinc
    simp [mayWrite, hinc]

theorem execLoadRegisters_keepsFrame {s t : State} {x : Nibble} (h : execLoadRegisters x s = .next t) :
    KeepsFrame (.loadRegisters x) s t := by
  refine .of_orRaise rfl (fun rs hrs hk => ?_) h
  cases hk
  refine ⟨_, (KeepsAllBut.setRegsFrom s 0 _).trans (.incIndex _ _ _), fun p hp => ?_⟩
  rcases List.mem_append.1 hp with hp | hp
  · obtain ⟨j, hj, rfl⟩ := List.mem_map.1 hp
    have hlen : rs.length = x.toNat + 1 := (resolveFrom_ok (State.resolveFrom_of_resolveRange hrs)).1
    have hle : j ≤ x.toNat := by
      rw [State.length_readAll, hlen, List.mem_range'_1] at hj
      omega
    have hreg : (BitVec.ofNat 4 j).toNat ≤ x.toNat := (Nat.mod_le j _).trans hle
    simpa [mayWrite, Place.isRegUpTo] using hreg
  · obtain ⟨hinc, rfl⟩ := mem_incIndex_places hp
    simp only [State.setRegsFrom_quirks] at hinc
    simp [mayWrite, hinc]

theorem execAddToIndex_keepsFrame {s t : State} {x : Nibble} (h : execAddToIndex x s = .next t) :
    KeepsFrame (.addToIndex x) s t := by
  cases h
  split
  · exact ⟨[.index] ++ [.reg 0xF#4], KeepsAllBut.trans .of_fields (.setReg _ 0xF#4 _), by simp [mayWrite]⟩
  · exact ⟨[.index], .of_fields, by simp [mayWrite]⟩

theorem execGetKey_keepsFrame {s t : State} {x : Nibble} (h : execGetKey x s = .next t) :
    KeepsFrame (.getKey x) s t := by
  unfold execGetKey at h
  split at h <;> cases h
  · exact ⟨[.pc], .of_fields, by simp [mayWrite]⟩
  · exact ⟨[.reg x], .setReg s x _, by simp [mayWrite]⟩

/-- A result and its flag: V[X], then VF (41_alu R170). -/
theorem writeWithFlag_keeps {s t : State} {x : Nibble} {result flag : Byte}
    (h : writeWithFlag s x result flag = .next t) : KeepsAllBut [.reg x, .reg 0xF#4] s t := by
  cases h
  exact (KeepsAllBut.setReg s x result).trans (.setReg _ 0xF#4 flag)

theorem skipIf_keeps {s t : State} {c : Bool} (h : skipIf c s = .next t) : KeepsAllBut [.pc] s t := by
  cases h
  exact .skipIf s c

/-- Every instruction keeps its frame: the shared operation it ends in says which places it writes. -/
theorem exec_keepsFrame {i : Instr} {s t : State} (h : exec i s = .next t) : KeepsFrame i s t := by
  cases i with
  | returnFromSubroutine => exact execReturnFromSubroutine_keepsFrame h
  | callSubroutine => exact execCallSubroutine_keepsFrame h
  | draw => exact execDraw_keepsFrame h
  | bcdConvert => exact execBcdConvert_keepsFrame h
  | storeRegisters => exact execStoreRegisters_keepsFrame h
  | loadRegisters => exact execLoadRegisters_keepsFrame h
  | addToIndex => exact execAddToIndex_keepsFrame h
  | getKey => exact execGetKey_keepsFrame h
  | skipEqualVal | skipNotEqualVal | skipEqualReg | skipNotEqualReg =>
    exact ⟨_, skipIf_keeps h, by simp [mayWrite]⟩
  | skipIfKeyPressed | skipIfKeyNotPressed =>
    exact ⟨_, (KeepsAllBut.keyDown s _).trans (skipIf_keeps h), by simp [mayWrite]⟩
  | addWithCarry | subtract | subtractNegate => exact ⟨_, writeWithFlag_keeps h, by simp [mayWrite]⟩
  | shiftRight x y | shiftLeft x y =>
    exact ⟨_, (KeepsAllBut.shiftSource s x y).trans (writeWithFlag_keeps h), by simp [mayWrite]⟩
  | generateRandomNumber x nn =>
    cases h
    exact ⟨[.randCount] ++ [.reg x], KeepsAllBut.trans .of_fields (.setReg _ x _), by simp [mayWrite]⟩
  | setRegVal x | addWithoutCarry x | setRegReg x | binOR x | binAND x | binXOR x | readDelayTimer x =>
    cases h
    exact ⟨_, .setReg s x _, by simp [mayWrite]⟩
  | jump | jumpWithOffset => cases h; exact ⟨[.pc], .of_fields, by simp [mayWrite]⟩
  | setIndex | fontCharacter => cases h; exact ⟨[.index], .of_fields, by simp [mayWrite]⟩
  | clearScreen => cases h; exact ⟨[.screen], .of_fields, by simp [mayWrite]⟩
  | writeDelayTimer => cases h; exact ⟨[.dt], .of_fields, by simp [mayWrite]⟩
  | writeSoundTimer => cases h; exact ⟨[.st], .of_fields, by simp [mayWrite]⟩
  | defaultOp => cases h; exact ⟨[.log], .of_fields, by simp [mayWrite]⟩

/-- Settles O56: `exec_keepsFrame`, read from the place. -/
theorem everyInstructionKeepsItsFrame : Obligations.EveryInstructionKeepsItsFrame := by
  intro i s t h
  obtain ⟨ws, hkeeps, hws⟩ := exec_keepsFrame h
  refine ⟨hkeeps.host, fun p hp => hkeeps.places p fun hmem => ?_⟩
  rw [hws p hmem] at hp
  cases hp

end Sys2Proof.Machine

/-! What a tick, a host event and a step keep: the timers, the run state and a recorded fault (10_state R44, R47, R48;
60_exceptions R301, R310, R338). Everything a tick keeps is read off the frame of the decoded instruction. -/
namespace Sys2Proof.Machine

open Sys2Proof.Config

/-! ### Which instructions write a timer or the log (10_state R44, R54) -/

theorem mayWrite_dt {s : State} {i : Instr} (h : mayWrite s i .dt = true) : ∃ x, i = .writeDelayTimer x := by
  cases i with
  | writeDelayTimer x => exact ⟨x, rfl⟩
  | _ => simp [mayWrite, Place.isStored, Place.isRegUpTo] at h

theorem mayWrite_st {s : State} {i : Instr} (h : mayWrite s i .st = true) : ∃ x, i = .writeSoundTimer x := by
  cases i with
  | writeSoundTimer x => exact ⟨x, rfl⟩
  | _ => simp [mayWrite, Place.isStored, Place.isRegUpTo] at h

theorem mayWrite_log {s : State} {i : Instr} (h : mayWrite s i .log = true) : ∃ w, i = .defaultOp w := by
  cases i with
  | defaultOp w => exact ⟨w, rfl⟩
  | _ => simp [mayWrite, Place.isStored, Place.isRegUpTo] at h

/-- DT after an instruction: as it was, or the register of FX15 (44_input_timer R264). -/
theorem exec_dt {i : Instr} {s t : State} (h : exec i s = .next t) :
    t.dt = s.dt ∨ ∃ x, i = .writeDelayTimer x ∧ t.dt = s.reg x := by
  by_cases hw : mayWrite s i .dt = true
  · obtain ⟨x, rfl⟩ := mayWrite_dt hw
    cases h
    exact .inr ⟨x, rfl, rfl⟩
  · exact .inl ((everyInstructionKeepsItsFrame i s t h).2 .dt (by simpa using hw))

/-- ST after an instruction: as it was, or the register of FX18 (44_input_timer R265). -/
theorem exec_st {i : Instr} {s t : State} (h : exec i s = .next t) :
    t.st = s.st ∨ ∃ x, i = .writeSoundTimer x ∧ t.st = s.reg x := by
  by_cases hw : mayWrite s i .st = true
  · obtain ⟨x, rfl⟩ := mayWrite_st hw
    cases h
    exact .inr ⟨x, rfl, rfl⟩
  · exact .inl ((everyInstructionKeepsItsFrame i s t h).2 .st (by simpa using hw))

/-- Settles O57: a tick raises in fetch, which keeps both timers, or executes the decoded word. -/
theorem ticksLeaveTimers : Obligations.TicksLeaveTimers := by
  intro s t h
  obtain ⟨-, -, ⟨r, -, rfl⟩ | ⟨w, hw, hx⟩⟩ := tick_cases h
  · exact ⟨.inl rfl, .inl rfl⟩
  · exact ⟨(exec_dt hx).imp_right fun ⟨x, hi, ht⟩ => ⟨w, x, hw, hi, ht⟩,
      (exec_st hx).imp_right fun ⟨x, hi, ht⟩ => ⟨w, x, hw, hi, ht⟩⟩

/-! ### The run state, a recorded fault and the host's writes, along a step -/

/-- Where the script brings an event, the step is that event. -/
theorem step_of_script {s : State} {e : HostEvent} {rest : List HostEvent} (h : s.script = e :: rest) :
    step s = runEvent e { s with script := rest } := by
  simp [step, nextEvent, h]

theorem step_of_script_nil {s : State} (h : s.script = []) : step s = tick s := by
  simp [step, nextEvent, h]

/-- Settles O47: the step is the event, and a MemoryIO write is read back by `Memory.read_write`. -/
theorem hostWritesChangeOneThing : Obligations.HostWritesChangeOneThing := by
  intro s rest
  refine ⟨fun q h => step_of_script h, fun b h => step_of_script h, fun b h => step_of_script h, fun a b h => ?_⟩
  exact ⟨_, step_of_script h, Memory.read_write s.mem a.toNat b, rfl⟩

/-- Settles O53: the reset memory is canonical, there is no stack limit, and no fault is recorded. -/
theorem resetMeetsInv : Obligations.ResetMeetsInv where
  memory := reset_memory_wf
  limit := rfl
  depth := fun _ h => by cases h
  idleClean := fun _ => rfl
  recorded := fun _ h => by cases h

/-- A tick writes nothing of the host's side. -/
theorem tick_sameHostSide {s t : State} (h : tick s = .next t) : SameHostSide s t := by
  obtain ⟨-, -, ⟨r, -, rfl⟩ | ⟨w, -, hx⟩⟩ := tick_cases h
  · exact ⟨rfl, rfl, rfl, rfl, rfl, rfl⟩
  · obtain ⟨hquirks, hkeys, hfresh, hrun, hparams, hscript⟩ := (everyInstructionKeepsItsFrame _ _ _ hx).1
    exact ⟨hquirks, hkeys, hfresh, hrun, hparams, hscript⟩

/-- An event keeps the run state, or is the `init()` of an idle core (10_state R47). -/
theorem runEvent_run {e : HostEvent} {s t : State} (h : runEvent e s = .next t) :
    t.run = s.run ∨ e = .init ∧ s.run = .idle ∧ t = s.init := by
  cases e with
  | tick => exact .inl (tick_sameHostSide h).run
  | init =>
    simp only [runEvent, initEvent] at h
    split at h <;> cases h
    exact .inr ⟨rfl, ‹_›, rfl⟩
  | _ => cases h; exact .inl rfl

/-- A step keeps the run state, or is the `init()` of an idle core. -/
theorem step_run {s t : State} (h : step s = .next t) :
    t.run = s.run ∨ s.run = .idle ∧ ∃ rest, s.script = .init :: rest ∧ t = { s.init with script := rest } := by
  cases hs : s.script with
  | nil =>
    rw [step_of_script_nil hs] at h
    exact .inl (tick_sameHostSide h).run
  | cons e rest =>
    rw [step_of_script hs] at h
    rcases runEvent_run h with hrun | ⟨rfl, hidle, rfl⟩
    · exact .inl hrun
    · exact .inr ⟨hidle, rest, rfl, rfl⟩

/-- `init()` in an idle core (70_reset_and_hazards R350). -/
theorem initEvent_idle {s : State} (h : s.run = .idle) : initEvent s = .next s.init := by simp [initEvent, h]

/-- A second `init()` in a run is not admitted (60_exceptions R338). -/
theorem initEvent_running {s : State} (h : s.run = .running) : initEvent s = .refused .initWhileRunning := by
  simp [initEvent, h]

/-- Settles O49: the transitions by `step_run`, the answers by the two cases of `initEvent`. -/
theorem onlyInitStartsTheCore : Obligations.OnlyInitStartsTheCore := by
  refine ⟨fun s t h hrun => ?_, fun s t h hidle hrun => ?_,
    fun s rest h hidle => (step_of_script h).trans (initEvent_idle hidle),
    fun s rest h hrun => (step_of_script h).trans (initEvent_running hrun)⟩
  · rcases step_run h with hsame | ⟨hidle, -⟩
    · exact hsame.trans hrun
    · rw [hrun] at hidle; cases hidle
  · rcases step_run h with hsame | ⟨-, hinit⟩
    · rw [hsame, hidle] at hrun; cases hrun
    · exact hinit

/-- A host event that is no tick keeps a recorded fault (60_exceptions R301). -/
theorem HostMove.fault {s t : State} (m : HostMove s t) : t.fault = s.fault := by
  cases m <;> rfl

/-- In a running core only a tick writes the core's registers, the stack, the screen or the log. -/
theorem HostMove.core {s t : State} (m : HostMove s t) (hrun : s.run = .running) :
    t.v = s.v ∧ t.i = s.i ∧ t.pc = s.pc ∧ t.stack = s.stack ∧ t.fb = s.fb ∧ t.diagLog = s.diagLog := by
  cases m with
  | init hidle => rw [hrun] at hidle; cases hidle
  | _ => exact ⟨rfl, rfl, rfl, rfl, rfl, rfl⟩

/-- Settles O50: no tick answers after a fault, so the step is one of the host's other events. -/
theorem faultIsFinal : Obligations.FaultIsFinal := by
  intro s t r hf h
  obtain ⟨u, hu, htick | hmove⟩ := step_cases h
  · have hfu : u.fault = s.fault := by rcases hu with rfl | ⟨rest, rfl⟩ <;> rfl
    obtain ⟨-, hclean, -⟩ := tick_cases htick
    rw [hfu, hf] at hclean
    cases hclean
  · rcases hu with rfl | ⟨rest, rfl⟩ <;> exact ⟨hmove.fault.trans hf, hmove.core⟩

end Sys2Proof.Machine

/-! What no instruction reads (10_state R44, R45, R54; 45_default_op R291): two runs from states that differ only in the
log, the sound counter and, but for the gated five, the quirks, answer states that differ only in them. -/
namespace Sys2Proof.Machine

open Sys2Proof.Config

/-! ### Runs from a state and from its overlay -/

/-- `s` with other quirks, another log and another sound counter. -/
def State.overlay (s : State) (q : Quirks) (log : List DiagRecord) (sound : Byte) : State :=
  { s with quirks := q, diagLog := log, st := sound }

section Overlay

variable {s t : State} {q : Quirks} {log : List DiagRecord} {sound : Byte}

theorem State.overlay_ite (c : Prop) [Decidable c] (u u' : State) :
    (if c then u else u').overlay q log sound = if c then u.overlay q log sound else u'.overlay q log sound :=
  apply_ite (fun r : State => r.overlay q log sound) c u u'

/-- Two runs of an operation that may raise: `f` takes the answers of the first to those of the second. -/
theorem orRaise_overlay {α : Type} {e : Except FaultRecord α} {k k' : α → Result} (f : α → α)
    (ok : ∀ a, e = .ok a → k a = .next t → k' (f a) = .next (t.overlay q log sound)) (h : orRaise s e k = .next t) :
    orRaise (s.overlay q log sound) (e.map f) k' = .next (t.overlay q log sound) := by
  rcases orRaise_cases h with ⟨r, rfl, rfl⟩ | ⟨a, rfl, hk⟩
  · rfl
  · exact ok a rfl hk

theorem State.push_overlay (v : Word) :
    (s.overlay q log sound).push v = (s.push v).map (·.overlay q log sound) := by
  rcases s.push_cases v with ⟨hs, hp⟩ | ⟨hs, hp⟩ <;> rw [hp]
  · exact State.push_full (s.overlay q log sound) v hs
  · exact State.push_ok (s.overlay q log sound) v hs

theorem State.pop_overlay :
    (s.overlay q log sound).pop = s.pop.map fun p => (p.1, p.2.overlay q log sound) := by
  rcases s.pop_cases with ⟨hs, hp⟩ | ⟨rest, v, hs, hp⟩ <;> rw [hp]
  · exact State.pop_empty (s.overlay q log sound) hs
  · exact State.pop_concat (s.overlay q log sound) rest v hs

theorem State.resolveRange_overlay (base n : Nat) :
    (s.overlay q log sound).resolveRange base n = (s.resolveRange base n).map id :=
  (congrFun Except.map_id (s.resolveRange base n)).symm

/-- Two runs of a ranged access: both resolve the same addresses, or raise the same fault. -/
theorem orRaise_resolveRange_overlay {base n : Nat} {k k' : List Nat → Result}
    (ok : ∀ rs, k rs = .next t → k' rs = .next (t.overlay q log sound))
    (h : orRaise s (s.resolveRange base n) k = .next t) :
    orRaise (s.overlay q log sound) ((s.overlay q log sound).resolveRange base n) k' =
      .next (t.overlay q log sound) := by
  rw [State.resolveRange_overlay]
  exact orRaise_overlay id (fun rs _ => ok rs) h

theorem State.fetch_overlay :
    (s.overlay q log sound).fetch = s.fetch.map fun p => (p.1, p.2.overlay q log sound) := by
  unfold State.fetch
  simp only [State.overlay]
  split
  · rfl
  · split <;> rfl

theorem State.keyDown_overlay (k : Byte) :
    (s.overlay q log sound).keyDown k = ((s.keyDown k).1, (s.keyDown k).2.overlay q log sound) := by
  unfold State.keyDown
  simp only [State.overlay]
  split <;> rfl

theorem State.setRegsFrom_overlay (k : Nat) (bs : List Byte) :
    (s.overlay q log sound).setRegsFrom k bs = (s.setRegsFrom k bs).overlay q log sound := by
  induction bs generalizing s k with
  | nil => rfl
  | cons b bs ih => exact ih (s := s.setReg (BitVec.ofNat 4 k) b) (k + 1)

theorem shiftSource_overlay (hq : q = s.quirks) (x y : Nibble) :
    shiftSource (s.overlay q log sound) x y = (shiftSource s x y).overlay q log sound := by
  subst hq
  unfold shiftSource
  rw [State.overlay_ite]
  rfl

theorem incIndex_overlay (hq : q = s.quirks) (base : Nat) (x : Nibble) :
    incIndex (s.overlay q log sound) base x = (incIndex s base x).overlay q log sound := by
  subst hq
  unfold incIndex
  rw [State.overlay_ite]
  rfl

theorem skipIf_overlay {c : Bool} (h : skipIf c s = .next t) :
    skipIf c (s.overlay q log sound) = .next (t.overlay q log sound) := by
  cases h
  rw [State.overlay_ite]
  rfl

theorem execReturnFromSubroutine_overlay (h : execReturnFromSubroutine s = .next t) :
    execReturnFromSubroutine (s.overlay q log sound) = .next (t.overlay q log sound) := by
  unfold execReturnFromSubroutine
  rw [State.pop_overlay]
  exact orRaise_overlay _ (fun p _ hk => by cases hk; rfl) h

theorem execCallSubroutine_overlay {nnn : Addr} (h : execCallSubroutine nnn s = .next t) :
    execCallSubroutine nnn (s.overlay q log sound) = .next (t.overlay q log sound) := by
  unfold execCallSubroutine
  rw [State.push_overlay]
  exact orRaise_overlay _ (fun u _ hk => by cases hk; rfl) h

theorem execStoreRegisters_overlay {x : Nibble} (hq : q = s.quirks) (h : execStoreRegisters x s = .next t) :
    execStoreRegisters x (s.overlay q log sound) = .next (t.overlay q log sound) := by
  refine orRaise_resolveRange_overlay (fun rs hk => ?_) h
  cases hk
  exact congrArg Host.Outcome.next (incIndex_overlay (s := s.writeAll rs (s.regsUpTo x)) hq _ x)

theorem execLoadRegisters_overlay {x : Nibble} (hq : q = s.quirks) (h : execLoadRegisters x s = .next t) :
    execLoadRegisters x (s.overlay q log sound) = .next (t.overlay q log sound) := by
  refine orRaise_resolveRange_overlay (fun rs hk => ?_) h
  cases hk
  rw [State.setRegsFrom_overlay, incIndex_overlay (by simpa using hq)]
  rfl

/-- Both shifts: the result and the flag are taken from `V[X]` as the first statement leaves it (41_alu R181, R182). -/
theorem shift_overlay {x y : Nibble} (result flag : Byte → Byte) (hq : q = s.quirks)
    (h : writeWithFlag (shiftSource s x y) x (result ((shiftSource s x y).reg x)) (flag ((shiftSource s x y).reg x)) =
      .next t) :
    writeWithFlag (shiftSource (s.overlay q log sound) x y) x
      (result ((shiftSource (s.overlay q log sound) x y).reg x))
      (flag ((shiftSource (s.overlay q log sound) x y).reg x)) = .next (t.overlay q log sound) := by
  rw [shiftSource_overlay hq]
  cases h
  rfl

/-- Both key skips: `c` is the condition on the key's answer (44_input_timer R260, R262). -/
theorem skipIf_keyDown_overlay {k : Byte} (c : Bool → Bool)
    (h : skipIf (c (s.keyDown k).1) (s.keyDown k).2 = .next t) :
    skipIf (c ((s.overlay q log sound).keyDown k).1) ((s.overlay q log sound).keyDown k).2 =
      .next (t.overlay q log sound) := by
  rw [State.keyDown_overlay]
  exact skipIf_overlay h

theorem execAddToIndex_overlay {x : Nibble} (h : execAddToIndex x s = .next t) :
    execAddToIndex x (s.overlay q log sound) = .next (t.overlay q log sound) := by
  cases h
  rw [State.overlay_ite]
  rfl

theorem execGetKey_overlay {x : Nibble} (h : execGetKey x s = .next t) :
    execGetKey x (s.overlay q log sound) = .next (t.overlay q log sound) := by
  unfold execGetKey at h ⊢
  simp only [State.overlay]
  split at h <;> cases h <;> rfl

/-- An instruction that writes neither the log nor the sound counter runs on an overlay as it does on the state; a gated
one needs the quirks it reads. -/
theorem exec_overlay_of_silent {i : Instr} (hq : quirkGated i = true → q = s.quirks)
    (hlog : mayWrite s i .log = false) (hst : mayWrite s i .st = false) (h : exec i s = .next t) :
    exec i (s.overlay q log sound) = .next (t.overlay q log sound) := by
  cases i with
  | returnFromSubroutine => exact execReturnFromSubroutine_overlay h
  | callSubroutine => exact execCallSubroutine_overlay h
  | draw | bcdConvert => exact orRaise_resolveRange_overlay (fun rs hk => by cases hk; rfl) h
  | addToIndex => exact execAddToIndex_overlay h
  | getKey => exact execGetKey_overlay h
  | storeRegisters => exact execStoreRegisters_overlay (hq rfl) h
  | loadRegisters => exact execLoadRegisters_overlay (hq rfl) h
  | shiftRight => exact shift_overlay shrByte shrOut (hq rfl) h
  | shiftLeft => exact shift_overlay shlByte shlOut (hq rfl) h
  | jumpWithOffset => cases hq rfl; cases h; rfl
  | skipEqualVal | skipNotEqualVal | skipEqualReg | skipNotEqualReg => exact skipIf_overlay h
  | skipIfKeyPressed => exact skipIf_keyDown_overlay id h
  | skipIfKeyNotPressed => exact skipIf_keyDown_overlay not h
  | defaultOp => cases hlog
  | writeSoundTimer => cases hst
  | clearScreen | jump | setRegVal | addWithoutCarry | setRegReg | binOR | binAND | binXOR | addWithCarry | subtract
  | subtractNegate | setIndex | generateRandomNumber | readDelayTimer | writeDelayTimer | fontCharacter =>
    cases h; rfl

/-- Every instruction, from an overlay of a state, answers an overlay of its answer; the log and the sound counter are the
answer's own where the run began with the state's own. -/
theorem exec_overlay {i : Instr} (hq : quirkGated i = true → q = s.quirks) (h : exec i s = .next t) :
    ∃ log' sound', exec i (s.overlay q log sound) = .next (t.overlay q log' sound') ∧
      (log = s.diagLog → log' = t.diagLog) ∧ (sound = s.st → sound' = t.st) := by
  by_cases hlog : mayWrite s i .log = true
  · obtain ⟨w, rfl⟩ := mayWrite_log hlog
    cases h
    exact ⟨log ++ [.unimplementedInstruction w s.insnAddr], sound, rfl, fun e => e ▸ rfl, id⟩
  by_cases hst : mayWrite s i .st = true
  · obtain ⟨x, rfl⟩ := mayWrite_st hst
    cases h
    exact ⟨log, s.reg x, rfl, id, fun _ => rfl⟩
  rw [Bool.not_eq_true] at hlog hst
  have hkeep := (everyInstructionKeepsItsFrame i s t h).2
  exact ⟨log, sound, exec_overlay_of_silent hq hlog hst h, fun e => e.trans (hkeep .log hlog).symm,
    fun e => e.trans (hkeep .st hst).symm⟩

/-- A tick of an overlay with the state's own quirks. -/
theorem tick_overlay (h : tick s = .next t) :
    ∃ log' sound', tick (s.overlay s.quirks log sound) = .next (t.overlay s.quirks log' sound') := by
  obtain ⟨hrun, hf, hcases⟩ := tick_cases h
  rw [tick_admitted (s := s.overlay s.quirks log sound) hrun hf, cycle, State.fetch_overlay]
  rcases hcases with ⟨r, hr, rfl⟩ | ⟨w, hw, hx⟩
  · rw [hr]
    exact ⟨log, sound, rfl⟩
  · rw [hw]
    obtain ⟨log', sound', hx', -⟩ := exec_overlay (log := log) (sound := sound) (fun _ => rfl) hx
    exact ⟨log', sound', hx'⟩

end Overlay

/-- Settles O58: a tick of an overlay answers an overlay of the tick's answer. -/
theorem nothingReadsLogOrSound : Obligations.NothingReadsLogOrSound := by
  intro s t log sound h
  obtain ⟨log', sound', h'⟩ := tick_overlay (log := log) (sound := sound) h
  refine ⟨_, h', ?_⟩
  rw [← (tick_sameHostSide h).quirks]
  rfl

/-- Settles O59: the overlay changes the quirks alone. -/
theorem onlyGatedInstructionsReadQuirks : Obligations.OnlyGatedInstructionsReadQuirks := by
  intro i s t q hgate h
  have hq : quirkGated i = true → q = s.quirks := fun hg => by rw [hgate] at hg; cases hg
  obtain ⟨log', sound', h', hlog, hst⟩ := exec_overlay (log := s.diagLog) (sound := s.st) hq h
  rw [hlog rfl, hst rfl] at h'
  exact h'

end Sys2Proof.Machine

/-! Decode and encode (30_encoding R104-R108; 20_memory R71): a word is its fields put together, so the encoding of what a
word decodes to is the word; the encoding of a row's instruction is recognized, so an unrecognized word decodes to the
fallback. -/
namespace Sys2Proof

/-! ### A word is its fields, format by format (30_encoding R102, R104) -/

theorem encodeNNN_fields (w : Word) : encodeNNN (fieldOp w) (fieldNNN w) = w :=
  (BitVec.extractLsb'_append_extractLsb'_eq_extractLsb' rfl).trans BitVec.extractLsb'_eq_self

theorem encodeXNN_fields (w : Word) : encodeXNN (fieldOp w) (fieldX w) (fieldNN w) = w := by
  have high : fieldOp w ++ fieldX w = w.extractLsb' 8 8 := BitVec.extractLsb'_append_extractLsb'_eq_extractLsb' rfl
  rw [encodeXNN, high]
  exact (BitVec.extractLsb'_append_extractLsb'_eq_extractLsb' rfl).trans BitVec.extractLsb'_eq_self

theorem encodeXY_fields (w : Word) : encodeXY (fieldOp w) (fieldX w) (fieldY w) (fieldN w) = w := by
  have low : fieldY w ++ fieldN w = fieldNN w := BitVec.extractLsb'_append_extractLsb'_eq_extractLsb' rfl
  rw [encodeXY, BitVec.append_assoc, low]
  exact encodeXNN_fields w

/-- The same with the fixed digits known: what a branch of decode has found. -/
theorem encodeNNN_of_op {w : Word} {op : Nibble} (hop : fieldOp w = op) : encodeNNN op (fieldNNN w) = w :=
  hop ▸ encodeNNN_fields w

theorem encodeXNN_of_op {w : Word} {op : Nibble} (hop : fieldOp w = op) :
    encodeXNN op (fieldX w) (fieldNN w) = w := hop ▸ encodeXNN_fields w

theorem encodeXNN_of_code {w : Word} {op : Nibble} {fn : Byte} (hop : fieldOp w = op) (hfn : fieldNN w = fn) :
    encodeXNN op (fieldX w) fn = w := hfn ▸ encodeXNN_of_op hop

theorem encodeXY_of_op {w : Word} {op : Nibble} (hop : fieldOp w = op) :
    encodeXY op (fieldX w) (fieldY w) (fieldN w) = w := hop ▸ encodeXY_fields w

theorem encodeXY_of_code {w : Word} {op fn : Nibble} (hop : fieldOp w = op) (hfn : fieldN w = fn) :
    encodeXY op (fieldX w) (fieldY w) fn = w := hfn ▸ encodeXY_of_op hop

/-! ### The encoding of a decoded word (30_encoding R107, R109)

Case `h_k` of a split is the k-th arm of the decoder; the last arm of a group is the fallback, which encodes to its word. -/

theorem encode_decodeGroup8 {w : Word} (hop : fieldOp w = 0x8#4) : encode (decodeGroup8 w) = w := by
  unfold decodeGroup8
  split
  case h_10 => rfl
  all_goals exact encodeXY_of_code hop ‹_›

theorem encode_decodeGroupE {w : Word} (hop : fieldOp w = 0xE#4) : encode (decodeGroupE w) = w := by
  unfold decodeGroupE
  split
  case h_3 => rfl
  all_goals exact encodeXNN_of_code hop ‹_›

theorem encode_decodeGroupF {w : Word} (hop : fieldOp w = 0xF#4) : encode (decodeGroupF w) = w := by
  unfold decodeGroupF
  split
  case h_10 => rfl
  all_goals exact encodeXNN_of_code hop ‹_›

/-- The encoding of what a word decodes to is the word: one arm of `decode` for each first digit. -/
theorem encode_decode (w : Word) : encode (decode w) = w := by
  unfold decode
  split
  case h_1 => split_ifs <;> simp [encode, *]
  case h_2 | h_3 | h_11 | h_12 => exact encodeNNN_of_op ‹_›
  case h_4 | h_5 | h_7 | h_8 | h_13 => exact encodeXNN_of_op ‹_›
  case h_6 | h_10 =>
    split_ifs with hn
    · exact encodeXY_of_code ‹_› hn
    · rfl
  case h_9 => exact encode_decodeGroup8 ‹_›
  case h_14 => exact encodeXY_of_op ‹_›
  case h_15 => exact encode_decodeGroupE ‹_›
  case h_16 h0 h1 h2 h3 h4 h5 h6 h7 h8 h9 hA hB hC hD hE =>
    have hop : fieldOp w = 0xF#4 := by
      revert h0 h1 h2 h3 h4 h5 h6 h7 h8 h9 hA hB hC hD hE
      generalize fieldOp w = op
      revert op
      decide
    exact encode_decodeGroupF hop

/-! ### The encoding of an instruction (30_encoding R106, R108) -/

open Laws.EncodingMatchesRow in
/-- The encoding of every instruction belongs to the row of its mnemonic. -/
theorem encodingMatchesRow : ∀ i : Instr, Laws.EncodingMatchesRow.Statement i
  | .clearScreen => clearScreen
  | .returnFromSubroutine => returnFromSubroutine
  | .jump nnn => jump nnn
  | .callSubroutine nnn => callSubroutine nnn
  | .skipEqualVal x nn => skipEqualVal x nn
  | .skipNotEqualVal x nn => skipNotEqualVal x nn
  | .skipEqualReg x y => skipEqualReg x y
  | .skipNotEqualReg x y => skipNotEqualReg x y
  | .setRegVal x nn => setRegVal x nn
  | .addWithoutCarry x nn => addWithoutCarry x nn
  | .setRegReg x y => setRegReg x y
  | .binOR x y => binOR x y
  | .binAND x y => binAND x y
  | .binXOR x y => binXOR x y
  | .addWithCarry x y => addWithCarry x y
  | .subtract x y => subtract x y
  | .subtractNegate x y => subtractNegate x y
  | .shiftRight x y => shiftRight x y
  | .shiftLeft x y => shiftLeft x y
  | .setIndex nnn => setIndex nnn
  | .jumpWithOffset nnn x => jumpWithOffset nnn x
  | .generateRandomNumber x nn => generateRandomNumber x nn
  | .draw x y n => draw x y n
  | .skipIfKeyPressed x => skipIfKeyPressed x
  | .skipIfKeyNotPressed x => skipIfKeyNotPressed x
  | .readDelayTimer x => readDelayTimer x
  | .writeDelayTimer x => writeDelayTimer x
  | .writeSoundTimer x => writeSoundTimer x
  | .addToIndex x => addToIndex x
  | .getKey x => getKey x
  | .fontCharacter x => fontCharacter x
  | .bcdConvert x => bcdConvert x
  | .storeRegisters x => storeRegisters x
  | .loadRegisters x => loadRegisters x
  | .defaultOp w => defaultOp w

/-- Every instruction but the fallback encodes to a recognized word. -/
theorem recognized_encode {i : Instr} (hi : ∀ w, i ≠ .defaultOp w) : recognized (encode i) = true := by
  have hrow : (opcodeMap.find? fun r => r.mnemonic == i.mnemonic).isSome = true := by
    cases i with
    | defaultOp w => exact absurd rfl (hi w)
    | _ => rfl
  obtain ⟨r, hr⟩ := Option.isSome_iff_exists.1 hrow
  have hmatch := encodingMatchesRow i
  rw [Laws.EncodingMatchesRow.Statement, hr] at hmatch
  exact List.any_eq_true.2 ⟨r, List.mem_of_find?_eq_some hr, hmatch⟩

/-- An unrecognized word is `defaultOp` (R108): as any other instruction it would be recognized. -/
theorem decode_of_unrecognized {w : Word} (h : recognized w = false) : decode w = .defaultOp w := by
  have hencode := encode_decode w
  by_cases hdefault : ∃ w', decode w = .defaultOp w'
  · obtain ⟨w', hw'⟩ := hdefault
    rw [hw'] at hencode ⊢
    exact congrArg Instr.defaultOp hencode
  · have hrec := recognized_encode (i := decode w) fun w' hw' => hdefault ⟨w', hw'⟩
    rw [hencode, h] at hrec
    cases hrec

/-- A well-formed instruction is what its encoding decodes to. -/
theorem decode_encode {i : Instr} (h : i.WF = true) : decode (encode i) = i := by
  cases i with
  | defaultOp w => exact decode_of_unrecognized (w := w) (by simpa [Instr.WF] using h)
  | jumpWithOffset nnn x =>
    have hx : nnn.extractLsb' 8 4 = x := by simpa [Instr.WF] using h
    simp [encode, decode, hx]
  | clearScreen => rfl
  | returnFromSubroutine => rfl
  | _ => simp [encode, decode, decodeGroup8, decodeGroupE, decodeGroupF]

/-- Settles O6: the two bytes make the encoding's word again, and a list of fewer than two bytes is one of two. -/
theorem bytesDecodeInOrder : Obligations.BytesDecodeInOrder := by
  refine ⟨fun i rest h => ?_, fun bs h => ?_⟩
  · rw [encodeBytes, List.cons_append, List.cons_append, List.nil_append, decodeBytes_cons, wordOfBytes_hi_lo,
      decode_encode h]
  · match bs with
    | [] => rfl
    | [_] => rfl
    | _ :: _ :: _ => simp at h

end Sys2Proof

/-! Memory, fetch and the bad access (20_memory R70-R75; 30_encoding R101; 60_exceptions R300-R302). -/
namespace Sys2Proof.Machine

open Sys2Proof.Config

/-! ### The canonical form: its cells are read off it (R70) -/

/-- A cell of a memory with rising addresses is what its address reads as. -/
theorem Memory.read_of_mem {m : Memory} (hr : Memory.Rising m) {c : Host.Cell} (hc : c ∈ m) :
    Memory.read m c.1 = c.2 := by
  induction m with
  | nil => cases hc
  | cons d m ih =>
    obtain ⟨hd, hm⟩ := List.pairwise_cons.1 hr
    rcases List.mem_cons.1 hc with rfl | hc
    · exact if_pos rfl
    · exact (if_neg (hd c hc).ne).trans (ih hm hc)

/-- A canonical memory lists exactly the addresses that read as another byte than unlisted, with that byte. -/
theorem Memory.mem_iff_read {m : Memory} (h : Memory.wf m = true) (c : Host.Cell) :
    c ∈ m ↔ Memory.read m c.1 = c.2 ∧ c.2 ≠ Memory.initial c.1 := by
  obtain ⟨hr, hg⟩ := (Memory.wf_iff m).1 h
  refine ⟨fun hc => ⟨Memory.read_of_mem hr hc, (hg c hc).2⟩, fun ⟨hread, hne⟩ => ?_⟩
  by_cases hlisted : ∃ d ∈ m, d.1 = c.1
  · obtain ⟨d, hd, hdc⟩ := hlisted
    have hbyte : d.2 = c.2 := by rw [← Memory.read_of_mem hr hd, hdc, hread]
    exact Prod.ext hdc hbyte ▸ hd
  · have habsent := Memory.read_absent m c.1 fun d hd hdc => hlisted ⟨d, hd, hdc⟩
    exact absurd (hread.symm.trans habsent) hne

theorem Memory.Rising.nodup {m : Memory} (h : Memory.Rising m) : m.Nodup :=
  h.imp fun hlt e => hlt.ne (congrArg Prod.fst e)

/-- Settles O14: the cells are read off a canonical memory, and rising addresses leave one order for them. -/
theorem canonicalMemoryIsUnique : Obligations.CanonicalMemoryIsUnique := by
  intro m n hm hn hread
  have hrm : Memory.Rising m := ((Memory.wf_iff m).1 hm).1
  have hrn : Memory.Rising n := ((Memory.wf_iff n).1 hn).1
  have hcells : ∀ {c}, c ∈ m ↔ c ∈ n := fun {c} => by
    rw [Memory.mem_iff_read hm, Memory.mem_iff_read hn, hread]
  have hperm : m.Perm n := (List.perm_ext_iff_of_nodup hrm.nodup hrn.nodup).2 fun _ => hcells
  exact hperm.eq_of_pairwise (fun c d _ _ hcd hdc => absurd hcd hdc.asymm) hrm hrn

/-! ### Resolving an address above 0xFFF (R74) -/

theorem resolve_wrap12 {a : Nat} (h : 0xFFF < a) : resolve .wrap12 a = .ok (a % 4096) := if_neg h.not_ge

theorem resolve_clamp12 {a : Nat} (h : 0xFFF < a) : resolve .clamp12 a = .ok 0xFFF := if_neg h.not_ge

theorem resolve_fault {a : Nat} (h : 0xFFF < a) : resolve .fault a = .error a := if_neg h.not_ge

/-- Settles O13: one clause per choice of `MEM_OOB`, then the read after a write. -/
theorem resolveThenAccess : Obligations.ResolveThenAccess :=
  ⟨fun o _ h => resolve_low o h, fun _ h => ⟨resolve_wrap12 h, resolve_clamp12 h, resolve_fault h⟩,
    Memory.read_write, rfl⟩

/-! ### Fetch (R71, R75; 30_encoding R101) -/

/-- The two addresses of a reachable word resolve. -/
theorem Reachable.resolve_pair {s : State} {a : Nat} (h : Reachable s a 2) :
    ∃ hiAt loAt, resolve s.params.memOob a = .ok hiAt ∧ resolve s.params.memOob (a + 1) = .ok loAt := by
  obtain ⟨rs, -, hrs⟩ := State.resolveRange_ok h
  obtain ⟨hlen, hres⟩ := resolveFrom_ok hrs
  exact ⟨_, _, hres 0 (by omega), hres 1 (by omega)⟩

theorem KeepsAllBut.advance (s : State) : KeepsAllBut [.pc] s s.advance := .of_fields

theorem State.advance_pc_toNat (s : State) : s.advance.pc.toNat = (s.pc.toNat + 2) % 65536 := by simp

/-- Settles O8: both addresses resolve, and fetch answers their word and the advanced state. -/
theorem fetchIsBigEndian : Obligations.FetchIsBigEndian := by
  intro s h
  obtain ⟨hiAt, loAt, hhi, hlo⟩ := h.resolve_pair
  exact ⟨hiAt, loAt, _, _, hhi, hlo, State.fetch_of_resolve hhi hlo, wordOfBytes_toNat _ _, s.advance_pc_toNat,
    .advance s⟩

/-- A fetch that passes 0xFFF with `MEM_OOB = Fault` raises with the lowest bad address (R75). -/
theorem State.fetch_bad {s : State} (ho : s.params.memOob = .fault) (hpc : 0xFFF < s.pc.toNat + 1) :
    s.fetch = .error ⟨.memOutOfRange, max s.pc.toNat 0x1000⟩ := by
  cases hfetch : s.fetch with
  | error r => rw [(State.fetch_error hfetch).2.2]
  | ok p =>
    obtain ⟨-, loAt, -, hlo, -, -⟩ := State.fetch_ok hfetch
    rw [ho, resolve_fault hpc] at hlo
    cases hlo

/-- Settles O9: the step is an admitted tick, whose fetch raises. -/
theorem fetchFaultChangesOnlyFault : Obligations.FetchFaultChangesOnlyFault := by
  intro s hrun hf hscript ho hpc
  rw [step_of_script_nil hscript, tick_admitted hrun hf, cycle, State.fetch_bad ho hpc]
  rfl

/-! ### A data access past 0xFFF (R75) -/

/-- An instruction that begins by resolving a range at I past 0xFFF with `MEM_OOB = Fault` only records the fault,
whatever it would do next. -/
theorem orRaise_resolveRange_bad {s : State} {n : Nat} {k : List Nat → Result} (ho : s.params.memOob = .fault)
    (hn : 0 < n) (hb : 0x1000 < s.i.toNat + n) :
    orRaise s (s.resolveRange s.i.toNat n) k = .next (s.afterBadAccess s.i.toNat) := by
  rw [State.resolveRange_bad ho hn hb]
  rfl

/-- Settles O15: each of the four begins with its range: three bytes, V0 to VX twice, N rows. -/
theorem badAccessChangesOnlyFault : Obligations.BadAccessChangesOnlyFault := by
  intro x y n s ho
  refine ⟨fun hb => ?_, fun hb => ?_, fun hb => ?_, fun hn hb => ?_⟩
  · exact orRaise_resolveRange_bad ho (by decide) (by omega)
  · exact orRaise_resolveRange_bad ho (Nat.succ_pos _) (by omega)
  · exact orRaise_resolveRange_bad ho (Nat.succ_pos _) (by omega)
  · exact orRaise_resolveRange_bad ho hn (by omega)

end Sys2Proof.Machine

/-! The decoder against the opcode map (30_encoding R105-R109): a match under a row's mask fixes the digits the row's
operation is chosen by, so every word decodes as its row says, and the words left over are the unrecognized ones, digit by
digit. -/
namespace Sys2Proof

open Machine

/-! ### The fields of a word as digits of its number (R102) -/

theorem fieldOp_toNat (w : Word) : (fieldOp w).toNat = w.toNat / 4096 := by
  have := w.isLt
  simp only [fieldOp, BitVec.extractLsb'_toNat, Nat.shiftRight_eq_div_pow]
  omega

theorem fieldN_toNat (w : Word) : (fieldN w).toNat = w.toNat % 16 := by simp [fieldN]

theorem fieldNN_toNat (w : Word) : (fieldNN w).toNat = w.toNat % 256 := by simp [fieldNN]

/-! ### A row's mask covers the digits that choose its operation (R106) -/

theorem OpcodeRow.matchesWord_iff {r : OpcodeRow} {w : Word} : r.matchesWord w = true ↔ w &&& r.mask = r.value :=
  beq_iff_eq

/-- A field the mask covers whole is the row's in every word of the row. -/
theorem OpcodeRow.field_eq {r : OpcodeRow} {w : Word} {start len : Nat} (h : r.matchesWord w = true)
    (hmask : r.mask.extractLsb' start len = .allOnes len) :
    w.extractLsb' start len = r.value.extractLsb' start len := by
  rw [← matchesWord_iff.1 h, BitVec.extractLsb'_and, hmask, BitVec.and_allOnes]

theorem opcodeMap_covers_fieldOp : ∀ r ∈ opcodeMap, fieldOp r.mask = .allOnes 4 := by decide

/-- The first digits of the rows with no other fixed digit: formats `F_NNN`, `F_XNN` and the draw's (R104). -/
def digitsAlone : List Nibble := [0x1#4, 0x2#4, 0x3#4, 0x4#4, 0x6#4, 0x7#4, 0xA#4, 0xB#4, 0xC#4, 0xD#4]

/-- The first digits of the rows that fix N too: format `F_XYn` (R104). -/
def digitsWithN : List Nibble := [0x5#4, 0x8#4, 0x9#4]

/-- The first digits of the rows that fix NN too: format `F_Xnn` (R104). -/
def digitsWithNN : List Nibble := [0xE#4, 0xF#4]

/-- What a row's mask covers: the whole word, or the first digit with what the row's first digit asks for. -/
theorem opcodeMap_formats : ∀ r ∈ opcodeMap,
    r.mask = .allOnes 16 ∨
    fieldOp r.value ∈ digitsAlone ∨
    (fieldN r.mask = .allOnes 4 ∧ fieldOp r.value ∈ digitsWithN) ∨
    (fieldNN r.mask = .allOnes 8 ∧ fieldOp r.value ∈ digitsWithNN) := by decide

/-! ### The digits the decoder reads tell the operation (R107) -/

theorem mnemonic_decodeGroup8_congr {w v : Word} (hn : fieldN w = fieldN v) :
    (decodeGroup8 w).mnemonic = (decodeGroup8 v).mnemonic := by
  unfold decodeGroup8
  rw [hn]
  dsimp only
  split <;> rfl

theorem mnemonic_decodeGroupE_congr {w v : Word} (hnn : fieldNN w = fieldNN v) :
    (decodeGroupE w).mnemonic = (decodeGroupE v).mnemonic := by
  unfold decodeGroupE
  rw [hnn]
  split <;> rfl

theorem mnemonic_decodeGroupF_congr {w v : Word} (hnn : fieldNN w = fieldNN v) :
    (decodeGroupF w).mnemonic = (decodeGroupF v).mnemonic := by
  unfold decodeGroupF
  rw [hnn]
  dsimp only
  split <;> rfl

theorem mnemonic_decode_congr_op {w v : Word} (hop : fieldOp w = fieldOp v) (h : fieldOp v ∈ digitsAlone) :
    (decode w).mnemonic = (decode v).mnemonic := by
  unfold decode
  rw [hop]
  generalize fieldOp v = op at h
  unfold digitsAlone at h
  fin_cases h <;> rfl

theorem mnemonic_decode_congr_n {w v : Word} (hop : fieldOp w = fieldOp v) (hn : fieldN w = fieldN v)
    (h : fieldOp v ∈ digitsWithN) : (decode w).mnemonic = (decode v).mnemonic := by
  unfold decode
  rw [hop, hn]
  generalize fieldOp v = op at h
  unfold digitsWithN at h
  fin_cases h
  · by_cases h0 : fieldN v = 0#4 <;> simp [h0, Instr.mnemonic]
  · exact mnemonic_decodeGroup8_congr hn
  · by_cases h0 : fieldN v = 0#4 <;> simp [h0, Instr.mnemonic]

theorem mnemonic_decode_congr_nn {w v : Word} (hop : fieldOp w = fieldOp v) (hnn : fieldNN w = fieldNN v)
    (h : fieldOp v ∈ digitsWithNN) : (decode w).mnemonic = (decode v).mnemonic := by
  unfold decode
  rw [hop]
  generalize fieldOp v = op at h
  unfold digitsWithNN at h
  fin_cases h
  · exact mnemonic_decodeGroupE_congr hnn
  · exact mnemonic_decodeGroupF_congr hnn

/-! ### Every word decodes as its row says (R106, R108) -/

theorem mnemonic_decode_value : ∀ r ∈ opcodeMap, (decode r.value).mnemonic = r.mnemonic := by decide

theorem opcodeMap_mnemonic_ne_defaultOp : ∀ r ∈ opcodeMap, r.mnemonic ≠ "defaultOp" := by decide

/-- Two rows whose values agree on the bits both masks cover are one row. -/
theorem opcodeMap_disjoint : ∀ r₁ ∈ opcodeMap, ∀ r₂ ∈ opcodeMap,
    r₁.value &&& r₂.mask = r₂.value &&& r₁.mask → r₁ = r₂ := by decide

/-- A word of a row decodes to the row's operation, as the row's own value does. -/
theorem mnemonic_decode_of_matches {r : OpcodeRow} {w : Word} (hr : r ∈ opcodeMap) (h : r.matchesWord w = true) :
    (decode w).mnemonic = r.mnemonic := by
  rw [← mnemonic_decode_value r hr]
  have hop : fieldOp w = fieldOp r.value := OpcodeRow.field_eq h (opcodeMap_covers_fieldOp r hr)
  rcases opcodeMap_formats r hr with hmask | hmem | ⟨hmask, hmem⟩ | ⟨hmask, hmem⟩
  · rw [← OpcodeRow.matchesWord_iff.1 h, hmask, BitVec.and_allOnes]
  · exact mnemonic_decode_congr_op hop hmem
  · exact mnemonic_decode_congr_n hop (OpcodeRow.field_eq h hmask) hmem
  · exact mnemonic_decode_congr_nn hop (OpcodeRow.field_eq h hmask) hmem

/-- A word that decodes to the fallback is of no row. -/
theorem recognized_eq_false_of_decode {w w' : Word} (h : decode w = .defaultOp w') : recognized w = false := by
  refine List.any_eq_false.2 fun r hr hmatch => opcodeMap_mnemonic_ne_defaultOp r hr ?_
  rw [← mnemonic_decode_of_matches hr hmatch, h]
  rfl

/-- Every word decodes to a well-formed instruction: `encode_decode` gives back the operands of the two that can be
ill-formed. -/
theorem decode_wf (w : Word) : (decode w).WF = true := by
  have hencode := encode_decode w
  cases hdecode : decode w with
  | defaultOp w' =>
    obtain rfl : w' = w := by rwa [hdecode] at hencode
    simp [Instr.WF, recognized_eq_false_of_decode hdecode]
  | jumpWithOffset nnn x =>
    rw [hdecode, encode] at hencode
    subst hencode
    simpa [decode, Instr.WF] using hdecode
  | _ => rfl

/-- Settles O1: `decode_encode`, instruction by instruction. -/
theorem decodeOfEncode : Obligations.DecodeOfEncode := fun _ => decode_encode

/-- Settles O2: what a word decodes to is well-formed (`decode_wf`) and encodes to the word (`encode_decode`). -/
theorem encodeOfDecode : Obligations.EncodeOfDecode := fun w => ⟨decode_wf w, encode_decode w⟩

/-- Settles O3: the rows choose the operation by `mnemonic_decode_of_matches`; on a word of two rows, both values
are the word's bits under their masks. -/
theorem decodeFollowsOpcodeMap : Obligations.DecodeFollowsOpcodeMap := by
  intro w
  refine ⟨fun r hr => mnemonic_decode_of_matches hr, fun h => decode_of_unrecognized ?_,
    fun r₁ hr₁ r₂ hr₂ h₁ h₂ => ?_⟩
  · exact List.any_eq_false.2 fun r hr => Bool.eq_false_iff.1 (h r hr)
  · apply opcodeMap_disjoint r₁ hr₁ r₂ hr₂
    rw [← OpcodeRow.matchesWord_iff.1 h₁, ← OpcodeRow.matchesWord_iff.1 h₂, BitVec.and_assoc, BitVec.and_assoc,
      BitVec.and_comm r₁.mask]

/-- Settles O5: the decoder runs on each written-out word. -/
theorem sampleWordsDecode : Obligations.SampleWordsDecode := by
  unfold Obligations.SampleWordsDecode
  decide

/-! ### The unrecognized words, group by group (R108) -/

theorem decodeGroup8_eq_defaultOp_iff (w : Word) :
    decodeGroup8 w = .defaultOp w ↔ (fieldN w).toNat ∈ [0x8, 0x9, 0xA, 0xB, 0xC, 0xD, 0xF] := by
  have codes : ∀ n : Nibble, n.toNat ∈ [0x8, 0x9, 0xA, 0xB, 0xC, 0xD, 0xF] ↔
      n ∉ [0x0#4, 0x1#4, 0x2#4, 0x3#4, 0x4#4, 0x5#4, 0x6#4, 0x7#4, 0xE#4] := by decide
  rw [codes]
  unfold decodeGroup8
  split <;> simp_all

theorem decodeGroupE_eq_defaultOp_iff (w : Word) :
    decodeGroupE w = .defaultOp w ↔ (fieldNN w).toNat ∉ [0x9E, 0xA1] := by
  unfold decodeGroupE
  split <;> simp_all [BitVec.toNat_eq]

theorem decodeGroupF_eq_defaultOp_iff (w : Word) :
    decodeGroupF w = .defaultOp w ↔
      (fieldNN w).toNat ∉ [0x07, 0x0A, 0x15, 0x18, 0x1E, 0x29, 0x33, 0x55, 0x65] := by
  unfold decodeGroupF
  split <;> simp_all [BitVec.toNat_eq]

/-- Settles O4: the diagnostic is a write to the log alone, and each first digit leaves its part of the list. -/
theorem unrecognizedWords : Obligations.UnrecognizedWords := by
  intro w
  refine ⟨fun s => ⟨_, rfl, by simp, .of_fields⟩, ?_⟩
  rw [← fieldOp_toNat, ← fieldN_toNat, ← fieldNN_toNat]
  unfold decode
  split
  case h_1 hop | h_6 hop | h_10 hop => rw [hop]; split_ifs <;> simp_all [BitVec.toNat_eq]
  case h_9 hop => rw [decodeGroup8_eq_defaultOp_iff]; simp [hop]
  case h_15 hop => rw [decodeGroupE_eq_defaultOp_iff]; simp [hop]
  case h_16 =>
    have hop : fieldOp w = 0xF#4 := by
      simp only [imp_false] at *
      bv_omega
    rw [decodeGroupF_eq_defaultOp_iff]
    simp [hop]
  all_goals simp [*]

end Sys2Proof

/-! Execution completes, and a step is the execution of the fetched word (30_encoding R101, R109-R112). -/
namespace Sys2Proof.Machine

/-- An operation that may raise answers a next state either way (R111; 60_exceptions R301). -/
theorem orRaise_completes {α : Type} {s : State} {e : Except FaultRecord α} {k : α → Result}
    (hk : ∀ a, ∃ t, k a = .next t) : ∃ t, orRaise s e k = .next t := by
  cases e with
  | error r => exact ⟨_, rfl⟩
  | ok a => exact hk a

/-- The wait for a key is a rewind, not a stop (R112). -/
theorem execGetKey_completes (x : Nibble) (s : State) : ∃ t, execGetKey x s = .next t := by
  unfold execGetKey
  split
  · exact ⟨_, rfl⟩
  · exact ⟨_, rfl⟩

/-- Settles O11: the instructions that may raise, the wait for a key, and those that answer their state outright. -/
theorem everyInstructionCompletes : Obligations.EveryInstructionCompletes := by
  intro i s
  cases i with
  | returnFromSubroutine | callSubroutine | draw | bcdConvert | storeRegisters | loadRegisters =>
    exact orRaise_completes fun _ => ⟨_, rfl⟩
  | getKey x => exact execGetKey_completes x s
  | _ => exact ⟨_, rfl⟩

theorem State.advance_eq (s : State) : s.advance = { s with pc := s.pc + 2#16 } := by
  simp [State.advance, State.setPc, BitVec.ofNat_add]

/-- An admitted tick whose fetch addresses resolve executes their word with PC past it (R101, R111). -/
theorem tick_of_resolve {s : State} {hiAt loAt : Nat} (hrun : s.run = .running) (hfault : s.fault = none)
    (hhi : resolve s.params.memOob s.pc.toNat = .ok hiAt)
    (hlo : resolve s.params.memOob (s.pc.toNat + 1) = .ok loAt) :
    tick s = exec (decode (wordOfBytes (Memory.read s.mem hiAt) (Memory.read s.mem loAt)))
      { s with pc := s.pc + 2#16 } := by
  rw [tick_admitted hrun hfault, cycle, State.fetch_of_resolve hhi hlo, orRaise_ok, State.advance_eq]

/-- Settles O7: the step is the tick of the state, or of the state whose script lost its head. -/
theorem stepRunsDecodedInstruction : Obligations.StepRunsDecodedInstruction := by
  rintro s i hiAt loAt hrun hfault hhi hlo rfl
  refine ⟨fun hscript => ?_, fun rest hscript => ?_⟩
  · rw [step_of_script_nil hscript, tick_of_resolve hrun hfault hhi hlo]
  · exact (step_of_script hscript).trans (tick_of_resolve (s := { s with script := rest }) hrun hfault hhi hlo)

end Sys2Proof.Machine

/-! Control transfer and skips (40_control_flow R140-R148): each transfer is one update of PC, with the stack operation it
begins with; the four skips share `skipIf`, and each decodes from its encoding by `decode_encode`. -/
namespace Sys2Proof.Machine

/-! ### PC after a transfer (10_state R34; 40_control_flow R141, R147) -/

theorem KeepsAllBut.setPc (s : State) (n : Nat) : KeepsAllBut [.pc] s (s.setPc n) := .of_fields

/-- A target of 16 bits is reached as it is. -/
theorem State.setPc_pc_toNat (s : State) {n : Nat} (h : n < 65536) : (s.setPc n).pc.toNat = n := by
  rw [State.setPc_pc, BitVec.toNat_ofNat, Nat.mod_eq_of_lt h]

theorem State.setPc_addrOperand_pc_toNat (s : State) (nnn : Addr) : (s.setPc (addrOperand nnn)).pc.toNat = nnn.toNat :=
  s.setPc_pc_toNat (nnn.isLt.trans (by decide))

/-- Settles O25: a write to PC alone, and NNN is within its 16 bits. -/
theorem jumpSetsPc : Obligations.JumpSetsPc := fun nnn s =>
  ⟨decode_encode (i := .jump nnn) rfl, _, rfl, s.setPc_addrOperand_pc_toNat nnn, .setPc s _⟩

/-- Settles O31: NNN and a byte stay within the 16 bits of PC, so nothing is reduced. -/
theorem jumpWithOffsetAddsRegister : Obligations.JumpWithOffsetAddsRegister := by
  intro nnn s
  refine ⟨decode_encode (i := .jumpWithOffset nnn (nnn.extractLsb' 8 4)) (beq_self_eq_true _), fun x => ?_⟩
  have hfits : nnn.toNat + (s.reg (jumpRegister s x)).toNat < 65536 := by
    have hnnn := nnn.isLt
    have hreg := (s.reg (jumpRegister s x)).isLt
    omega
  exact ⟨_, rfl, s.setPc_pc_toNat hfits, .setPc s _⟩

/-! ### Call and return (R140, R142) -/

/-- A call below the limit (10_state R41). -/
theorem exec_callSubroutine_ok {s : State} (nnn : Addr) (h : s.params.stackLimit ≠ some s.stack.length) :
    exec (.callSubroutine nnn) s = .next ({ s with stack := s.stack ++ [s.pc] }.setPc (addrOperand nnn)) := by
  rw [exec, execCallSubroutine, s.push_ok s.pc h, orRaise_ok]

/-- A call at the limit (10_state R41). -/
theorem exec_callSubroutine_full {s : State} (nnn : Addr) (h : s.params.stackLimit = some s.stack.length) :
    exec (.callSubroutine nnn) s = .next { s with fault := some ⟨.stackOverflow, s.pc.toNat⟩ } := by
  rw [exec, execCallSubroutine, s.push_full s.pc h, orRaise_error]

/-- A return to the value on top of the stack (10_state R42). -/
theorem exec_returnFromSubroutine_concat {s : State} {rest : List Word} {v : Word} (h : s.stack = rest ++ [v]) :
    exec .returnFromSubroutine s = .next { s with stack := rest, pc := v } := by
  rw [exec, execReturnFromSubroutine, s.pop_concat rest v h, orRaise_ok, State.setPc, BitVec.ofNat_toNat,
    BitVec.setWidth_eq]

/-- A return with an empty stack (10_state R42). -/
theorem exec_returnFromSubroutine_empty {s : State} (h : s.stack = []) :
    exec .returnFromSubroutine s = .next { s with fault := some ⟨.stackUnderflow, s.pc.toNat⟩ } := by
  rw [exec, execReturnFromSubroutine, s.pop_empty h, orRaise_error]

/-- Settles O26: the two answers of the push. -/
theorem callPushesReturnAddress : Obligations.CallPushesReturnAddress := fun nnn _ =>
  ⟨decode_encode (i := .callSubroutine nnn) rfl,
    fun h => ⟨_, exec_callSubroutine_ok nnn h, State.setPc_addrOperand_pc_toNat _ nnn, rfl, .of_fields⟩,
    exec_callSubroutine_full nnn⟩

/-- Settles O27: the two answers of the pop. -/
theorem returnPopsPc : Obligations.ReturnPopsPc := fun _ =>
  ⟨decode_encode (i := .returnFromSubroutine) rfl,
    fun _ _ h => ⟨_, exec_returnFromSubroutine_concat h, rfl, rfl, .of_fields⟩,
    exec_returnFromSubroutine_empty⟩

/-- Settles O28: the call's stack ends in the return address, which is what a return pops. -/
theorem returnUndoesCall : Obligations.ReturnUndoesCall := fun nnn _ h =>
  ⟨_, exec_callSubroutine_ok nnn h, fun _ hstack => ⟨_, exec_returnFromSubroutine_concat hstack, rfl, rfl⟩⟩

/-! ### Skips (R143-R146, R148) -/

/-- A skip moves PC past one word where its condition holds, and writes nothing else (R148). -/
theorem skipIf_of_iff {c : Bool} {p : Prop} [Decidable p] (h : c = true ↔ p) (s : State) :
    ∃ t, skipIf c s = .next t ∧ t.pc.toNat = (if p then (s.pc.toNat + 2) % 65536 else s.pc.toNat) ∧
      KeepsAllBut [.pc] s t := by
  refine ⟨_, rfl, ?_, .skipIf s c⟩
  by_cases hp : p
  · rw [if_pos (h.2 hp), if_pos hp, s.advance_pc_toNat]
  · rw [if_neg (mt h.1 hp), if_neg hp]

/-- Settles O29: the two conditions on the byte, as `skipIf` takes them. -/
theorem skipOnByte : Obligations.SkipOnByte := fun x nn s =>
  ⟨⟨decode_encode (i := .skipEqualVal x nn) rfl, skipIf_of_iff beq_iff_eq s⟩,
    ⟨decode_encode (i := .skipNotEqualVal x nn) rfl, skipIf_of_iff bne_iff_ne s⟩⟩

/-- With another last digit than 0 a word of the register skips is unrecognized (R145, R146). -/
theorem decode_skipReg_eq_defaultOp {op n : Nibble} (hop : op = 0x5#4 ∨ op = 0x9#4) (x y : Nibble) (hn : n ≠ 0x0#4) :
    decode (encodeXY op x y n) = .defaultOp (encodeXY op x y n) := by
  rcases hop with rfl | rfl
  · simp [decode, hn]
  · simp [decode, hn]

/-- Settles O30: the two conditions on the registers, and the words that miss the last digit. -/
theorem skipOnRegisters : Obligations.SkipOnRegisters := fun x y s =>
  ⟨fun _ hn => ⟨decode_skipReg_eq_defaultOp (.inl rfl) x y hn, decode_skipReg_eq_defaultOp (.inr rfl) x y hn⟩,
    ⟨decode_encode (i := .skipEqualReg x y) rfl, skipIf_of_iff beq_iff_eq s⟩,
    ⟨decode_encode (i := .skipNotEqualReg x y) rfl, skipIf_of_iff bne_iff_ne s⟩⟩

end Sys2Proof.Machine

/-! Register and arithmetic instructions (41_alu R170-R183): without a flag each is one register write; with one, a result and
then its flag (R170), which `writeWithFlag_spec` says once for the sum, the differences and the shifts. -/
namespace Sys2Proof.Machine

/-! ### One register write, no flag (R171-R176, R183) -/

/-- A frame may list more places than it needs, in any order. -/
theorem KeepsAllBut.mono {ws ws' : List Place} {s t : State} (h : KeepsAllBut ws s t) (hsub : ws ⊆ ws') :
    KeepsAllBut ws' s t :=
  ⟨h.host, fun p hp => h.places p fun hmem => hp (hsub hmem)⟩

/-- Settles O16: the byte and the other register's value, each by one register write. -/
theorem setRegLoadsByteOrRegister : Obligations.SetRegLoadsByteOrRegister := fun x y nn s =>
  ⟨⟨decode_encode (i := .setRegVal x nn) rfl, _, rfl, s.reg_setReg_self x nn, .setReg s x nn⟩,
    ⟨decode_encode (i := .setRegReg x y) rfl, _, rfl, s.reg_setReg_self x (s.reg y), .setReg s x (s.reg y)⟩⟩

/-- Settles O17: the value written is `sumByte`, and the one write is to V[X]. -/
theorem addWithoutCarryTouchesNoFlag : Obligations.AddWithoutCarryTouchesNoFlag := fun x nn s =>
  ⟨decode_encode (i := .addWithoutCarry x nn) rfl, _, rfl, by rw [State.reg_setReg_self, sumByte_toNat], .setReg s x _⟩

/-- Settles O18: each writes V[X] alone, with the bits of its bitwise result. -/
theorem bitwiseOpsTouchNoFlag : Obligations.BitwiseOpsTouchNoFlag := fun x y s =>
  ⟨⟨decode_encode (i := .binOR x y) rfl, _, rfl,
      fun _ _ => by rw [State.reg_setReg_self, BitVec.getLsbD_or], .setReg s x _⟩,
    ⟨decode_encode (i := .binAND x y) rfl, _, rfl,
      fun _ _ => by rw [State.reg_setReg_self, BitVec.getLsbD_and], .setReg s x _⟩,
    ⟨decode_encode (i := .binXOR x y) rfl, _, rfl,
      fun _ _ => by rw [State.reg_setReg_self, BitVec.getLsbD_xor], .setReg s x _⟩⟩

/-- A draw moves its counter alone (60_exceptions R326). -/
theorem KeepsAllBut.rand (s : State) : KeepsAllBut [.randCount] s s.rand.2 := .of_fields

/-- Settles O24: a draw, then a write to V[X] of the draw masked by NN. -/
theorem randomByteIsMasked : Obligations.RandomByteIsMasked := fun x nn s =>
  ⟨decode_encode (i := .generateRandomNumber x nn) rfl, _, rfl,
    fun _ _ => by rw [State.reg_setReg_self, BitVec.getLsbD_and, State.rand_fst], rfl,
    ((KeepsAllBut.rand s).trans (.setReg _ x _)).mono (by simp)⟩

/-! ### A result and its flag (R170, R177-R180) -/

/-- A result, then its flag: VF holds the flag, and V[X] the result where it is not VF (R170; 10_state R32). -/
theorem writeWithFlag_spec (s : State) (x : Nibble) (result flag : Byte) :
    ∃ t, writeWithFlag s x result flag = .next t ∧ (x ≠ 0xF#4 → t.reg x = result) ∧ t.reg 0xF#4 = flag ∧
      KeepsAllBut [.reg x, .reg 0xF#4] s t := by
  refine ⟨_, rfl, fun hx => ?_, State.reg_setReg_self _ _ flag, writeWithFlag_keeps rfl⟩
  rw [State.reg_setVF, if_neg hx, State.reg_setReg_self]

theorem flagByte_toNat (p : Prop) [Decidable p] : (flagByte (decide p)).toNat = if p then 1 else 0 := by
  by_cases hp : p
  · simp [flagByte, hp]
  · simp [flagByte, hp]

theorem carryFlag_toNat (a b : Byte) : (carryFlag a b).toNat = if a.toNat + b.toNat > 255 then 1 else 0 :=
  flagByte_toNat _

theorem noBorrowFlag_toNat (a b : Byte) :
    (noBorrowFlag a b).toNat = if (a.toNat : Int) - (b.toNat : Int) ≥ 0 then 1 else 0 :=
  flagByte_toNat (exactDiff a b ≥ 0)

/-- Settles O19: the result is `sumByte`, the flag `carryFlag`. -/
theorem addWithCarrySetsCarry : Obligations.AddWithCarrySetsCarry := by
  intro x y s
  obtain ⟨t, ht, hval, hflag, hkeeps⟩ :=
    writeWithFlag_spec s x (sumByte (s.reg x) (s.reg y)) (carryFlag (s.reg x) (s.reg y))
  exact ⟨decode_encode (i := .addWithCarry x y) rfl, t, ht, fun hx => by rw [hval hx, sumByte_toNat],
    by rw [hflag, carryFlag_toNat], hkeeps⟩

/-- Both subtractions: V[X] gets the difference of `a` and `b` modulo 256, and VF says that none was borrowed (R178-R180). -/
theorem writeWithFlag_diff_spec (s : State) (x : Nibble) (a b : Byte) :
    ∃ t, writeWithFlag s x (diffByte a b) (noBorrowFlag a b) = .next t ∧
      (x ≠ 0xF#4 → ((t.reg x).toNat : Int) = ((a.toNat : Int) - (b.toNat : Int)) % 256) ∧
      (t.reg 0xF#4).toNat = (if (a.toNat : Int) - (b.toNat : Int) ≥ 0 then 1 else 0) ∧
      KeepsAllBut [.reg x, .reg 0xF#4] s t := by
  obtain ⟨t, ht, hval, hflag, hkeeps⟩ := writeWithFlag_spec s x (diffByte a b) (noBorrowFlag a b)
  exact ⟨t, ht, fun hx => by rw [hval hx, diffByte_toNat], by rw [hflag, noBorrowFlag_toNat], hkeeps⟩

/-- Settles O20: the difference V[X] minus V[Y]. -/
theorem subtractSetsNoBorrow : Obligations.SubtractSetsNoBorrow := fun x y s =>
  ⟨decode_encode (i := .subtract x y) rfl, writeWithFlag_diff_spec s x (s.reg x) (s.reg y)⟩

/-- Settles O21: the negated difference of R179 is V[Y] minus V[X]. -/
theorem subtractNegateSetsNoBorrow : Obligations.SubtractNegateSetsNoBorrow := by
  intro x y s
  refine ⟨decode_encode (i := .subtractNegate x y) rfl, ?_⟩
  rw [mul_neg_one, neg_sub]
  exact writeWithFlag_diff_spec s x (s.reg y) (s.reg x)

/-! ### Shifts (R181, R182) -/

/-- The value a shift starts from: V[Y] with the quirk, V[X] without. -/
theorem shiftSource_reg_self (s : State) (x y : Nibble) :
    (shiftSource s x y).reg x = if s.quirks.shiftVY then s.reg y else s.reg x := by
  simp [shiftSource_reg]

/-- Both shifts: the result and the flag are functions of the value the shift starts from. -/
theorem shift_spec (result flag : Byte → Byte) (x y : Nibble) {s : State} {v : Byte}
    (hv : v = if s.quirks.shiftVY then s.reg y else s.reg x) :
    ∃ t, writeWithFlag (shiftSource s x y) x (result ((shiftSource s x y).reg x))
        (flag ((shiftSource s x y).reg x)) = .next t ∧
      (x ≠ 0xF#4 → t.reg x = result v) ∧ t.reg 0xF#4 = flag v ∧ KeepsAllBut [.reg x, .reg 0xF#4] s t := by
  obtain ⟨t, ht, hval, hflag, hkeeps⟩ := writeWithFlag_spec (shiftSource s x y) x (result v) (flag v)
  rw [shiftSource_reg_self, ← hv]
  exact ⟨t, ht, hval, hflag, ((KeepsAllBut.shiftSource s x y).trans hkeeps).mono (by simp)⟩

/-- Settles O22: the result is half the value, the flag its parity. -/
theorem shiftRightMovesBitOut : Obligations.ShiftRightMovesBitOut := by
  intro x y s v hv
  obtain ⟨t, ht, hval, hflag, hkeeps⟩ := shift_spec shrByte shrOut x y hv
  exact ⟨decode_encode (i := .shiftRight x y) rfl, t, ht, fun hx => by rw [hval hx, shrByte_toNat],
    by rw [hflag, shrOut_toNat], hkeeps⟩

/-- Settles O23: the result is twice the value modulo 256, the flag its top bit. -/
theorem shiftLeftMovesBitOut : Obligations.ShiftLeftMovesBitOut := by
  intro x y s v hv
  obtain ⟨t, ht, hval, hflag, hkeeps⟩ := shift_spec shlByte shlOut x y hv
  exact ⟨decode_encode (i := .shiftLeft x y) rfl, t, ht, fun hx => by rw [hval hx, shlByte_toNat],
    by rw [hflag, shlOut_toNat], hkeeps⟩

end Sys2Proof.Machine

/-! Index register and memory instructions (42_index_memory R210-R218): writes to I; and, for the three that access
memory, a range that resolves as a whole, named by its locations, or the fault of `orRaise_resolveRange_bad`. -/
namespace Sys2Proof.Machine

/-! ### Writes to I (10_state R38; R210-R212, R214) -/

theorem KeepsAllBut.setI (s : State) (n : Nat) : KeepsAllBut [.index] s (s.setI n) := .of_fields

/-- A value of 16 bits is loaded as it is. -/
theorem State.setI_i_toNat (s : State) {n : Nat} (h : n < 65536) : (s.setI n).i.toNat = n := by
  rw [State.setI_i, BitVec.toNat_ofNat, Nat.mod_eq_of_lt h]

/-- Settles O32: a write to I alone, and NNN is within its 16 bits. -/
theorem setIndexLoadsAddress : Obligations.SetIndexLoadsAddress := fun nnn s =>
  ⟨decode_encode (i := .setIndex nnn) rfl, _, rfl, s.setI_i_toNat (nnn.isLt.trans (by decide)), .setI s _⟩

/-- A sum above 0xFFF sets VF (R211). -/
theorem exec_addToIndex_of_gt {x : Nibble} {s u : State} (hu : u = s.setI (s.i.toNat + (s.reg x).toNat))
    (h : u.i.toNat > 0xFFF) : exec (.addToIndex x) s = .next (u.setVF 1#8) := by
  subst hu
  exact congrArg Host.Outcome.next (if_pos (decide_eq_true h))

/-- A sum up to 0xFFF leaves VF alone (R211). -/
theorem exec_addToIndex_of_le {x : Nibble} {s u : State} (hu : u = s.setI (s.i.toNat + (s.reg x).toNat))
    (h : ¬ u.i.toNat > 0xFFF) : exec (.addToIndex x) s = .next u := by
  subst hu
  exact congrArg Host.Outcome.next (if_neg (by simpa [indexOverflow] using h))

/-- Settles O33: the sum is written to I; VF is written in one of the two cases only. -/
theorem addToIndexSetsOverflow : Obligations.AddToIndexSetsOverflow := by
  intro x s
  refine ⟨decode_encode (i := .addToIndex x) rfl, ?_⟩
  obtain ⟨u, hu⟩ : ∃ u, u = s.setI (s.i.toNat + (s.reg x).toNat) := ⟨_, rfl⟩
  have hsum : u.i.toNat = (s.i.toNat + (s.reg x).toNat) % 65536 := by rw [hu, State.setI_i, BitVec.toNat_ofNat]
  have hkeeps : KeepsAllBut [.index] s u := hu ▸ .setI s _
  by_cases hover : u.i.toNat > 0xFFF
  · exact ⟨_, exec_addToIndex_of_gt hu hover, hsum, (u.reg_setReg_self _ _).trans (if_pos hover).symm,
      hkeeps.trans (.setReg u _ _)⟩
  · exact ⟨u, exec_addToIndex_of_le hu hover, hsum, by rw [if_neg hover, hu, State.setI_reg], hkeeps.mono (by simp)⟩

/-- Settles O34: the glyph of a digit below 16 is within the 16 bits of I. -/
theorem fontCharacterPointsAtGlyph : Obligations.FontCharacterPointsAtGlyph := by
  intro x s
  have hglyph : fontMap (fontDigit (s.reg x)) = 0x050 + 5 * ((s.reg x).toNat % 16) := by
    rw [fontMap, fontDigit_eq, fontBase]
  exact ⟨decode_encode (i := .fontCharacter x) rfl, _, rfl, by rw [hglyph, State.setI_i_toNat _ (by omega)],
    .setI s _⟩

/-! ### The locations of a resolved range (20_memory R74, R75) -/

/-- A reachable range resolves to one location for each of its addresses, in order. -/
theorem Reachable.locations {s : State} {base n : Nat} (h : Reachable s base n) :
    ∃ loc : Nat → Nat, s.resolveRange base n = .ok ((List.range n).map loc) ∧
      ∀ k < n, resolve s.params.memOob (base + k) = .ok (loc k) := by
  obtain ⟨rs, hrange, hrs⟩ := State.resolveRange_ok h
  obtain ⟨rfl, hres⟩ := resolveFrom_ok hrs
  refine ⟨fun k => rs.getD k 0, ?_, fun k hk => by simpa [hk] using hres k hk⟩
  rw [hrange]
  exact congrArg Except.ok (List.ext_getElem (by simp) fun k hk _ => by simp [hk])

/-! ### What the three instructions do with a range that resolves (R213, R216, R217) -/

theorem exec_bcdConvert_ok {s : State} {rs : List Nat} (x : Nibble) (h : s.resolveRange s.i.toNat 3 = .ok rs) :
    exec (.bcdConvert x) s = .next (s.writeAll rs (bcdDigits (s.reg x))) := by
  rw [exec, execBcdConvert, h, orRaise_ok]

theorem exec_storeRegisters_ok {s : State} {rs : List Nat} {x : Nibble}
    (h : s.resolveRange s.i.toNat (x.toNat + 1) = .ok rs) :
    exec (.storeRegisters x) s = .next (incIndex (s.writeAll rs (s.regsUpTo x)) s.i.toNat x) := by
  rw [exec, execStoreRegisters, h, orRaise_ok]

theorem exec_loadRegisters_ok {s : State} {rs : List Nat} {x : Nibble}
    (h : s.resolveRange s.i.toNat (x.toNat + 1) = .ok rs) :
    exec (.loadRegisters x) s = .next (incIndex (s.setRegsFrom 0 (s.readAll rs)) s.i.toNat x) := by
  rw [exec, execLoadRegisters, h, orRaise_ok]

/-! ### BCD (R213) -/

/-- A read after three writes: the last write to the address decides. -/
theorem Memory.read_writeCells_three (m : Memory) (a₀ a₁ a₂ : Nat) (b₀ b₁ b₂ : Byte) (a : Nat) :
    Memory.read (Memory.writeCells m [(a₀, b₀), (a₁, b₁), (a₂, b₂)]) a =
      if a = a₂ then b₂ else if a = a₁ then b₁ else if a = a₀ then b₀ else Memory.read m a := by
  simp only [Memory.writeCells, Memory.read_write]

/-- The three digits, hundreds first; each fits a byte. -/
theorem bcdDigits_spec (b : Byte) : ∃ hundreds tens ones : Byte, bcdDigits b = [hundreds, tens, ones] ∧
    hundreds.toNat = b.toNat / 100 ∧ tens.toNat = b.toNat / 10 % 10 ∧ ones.toNat = b.toNat % 10 := by
  have hb := b.isLt
  refine ⟨_, _, _, rfl, ?_, ?_, ?_⟩ <;> rw [BitVec.toNat_ofNat, Nat.mod_eq_of_lt (by omega)]

/-- Settles O35: three writes of a digit each, to the locations of the range in ascending order. -/
theorem bcdStoresDigits : Obligations.BcdStoresDigits := by
  intro x s
  refine ⟨decode_encode (i := .bcdConvert x) rfl, fun h => ?_,
    fun ho hb => orRaise_resolveRange_bad ho (by decide) (by omega)⟩
  obtain ⟨loc, hrange, hres⟩ := h.locations
  obtain ⟨hundreds, tens, ones, hdigits, hh, ht, ho⟩ := bcdDigits_spec (s.reg x)
  have hexec := exec_bcdConvert_ok x hrange
  rw [hdigits] at hexec
  refine ⟨loc 0, loc 1, loc 2, _, hres 0 (by decide), hres 1 (by decide), hres 2 (by decide), hexec, fun a => ?_,
    .writeAll s [loc 0, loc 1, loc 2] _⟩
  have hread := congrArg BitVec.toNat (s.mem.read_writeCells_three (loc 0) (loc 1) (loc 2) hundreds tens ones a)
  simp only [apply_ite BitVec.toNat, hh, ht, ho] at hread
  exact hread

/-! ### Registers to and from memory (R215-R218) -/

/-- The index increment adds I to the places written before it (R218). -/
theorem KeepsAllBut.thenIncIndex {ws : List Place} {s t : State} (h : KeepsAllBut ws s t) (base : Nat) (x : Nibble) :
    KeepsAllBut (.index :: ws) s (Machine.incIndex t base x) := by
  refine (h.trans (.incIndex t base x)).mono fun p hp => ?_
  rcases List.mem_append.1 hp with hp | hp
  · exact List.mem_cons_of_mem _ hp
  · exact (mem_incIndex_places hp).2 ▸ List.mem_cons_self

/-- The registers to store, by number. -/
theorem State.regsUpTo_eq_map (s : State) (x : Nibble) :
    s.regsUpTo x = (List.range (x.toNat + 1)).map fun k => s.reg (BitVec.ofNat 4 k) :=
  List.ext_getElem (by simp [State.length_regsUpTo]) fun k hk _ => by simp [State.getElem_regsUpTo s x k hk]

/-- Of numbered writes in ascending order, the last one to a location is the one a read sees (20_memory R72, R79). -/
theorem Memory.read_writeCells_range (m : Memory) (loc : Nat → Nat) (byte : Nat → Byte) {n k : Nat} (hk : k < n)
    (hlast : ∀ j < n, k < j → loc j ≠ loc k) :
    Memory.read (Memory.writeCells m ((List.range n).map fun j => (loc j, byte j))) (loc k) = byte k := by
  obtain ⟨d, rfl⟩ := Nat.exists_eq_add_of_lt hk
  have hsplit : List.range (k + d + 1) = List.range k ++ k :: List.range' (k + 1) d := by
    rw [← List.range'_succ, List.range_eq_range', List.range_eq_range', add_assoc, ← List.range'_append_1, zero_add]
  rw [hsplit, List.map_append, List.map_cons]
  refine Memory.read_writeCells_last _ _ _ _ _ fun c hc => ?_
  obtain ⟨j, hj, rfl⟩ := List.mem_map.1 hc
  rw [List.mem_range'_1] at hj
  exact hlast j (by omega) (by omega)

/-- Settles O36: V0 to VX are written to the locations of the range in ascending order, then I moves. -/
theorem storeRegistersWritesMemory : Obligations.StoreRegistersWritesMemory := by
  intro x s
  refine ⟨decode_encode (i := .storeRegisters x) rfl, fun h => ?_,
    fun ho hb => orRaise_resolveRange_bad ho (Nat.succ_pos _) (by omega)⟩
  obtain ⟨loc, hrange, hres⟩ := h.locations
  refine ⟨loc, _, fun k hk => hres k (Nat.lt_succ_of_le hk), exec_storeRegisters_ok hrange, fun k hk hlast => ?_,
    incIndex_i _ _ x, ?_⟩
  · rw [incIndex_mem, State.writeAll_mem, State.regsUpTo_eq_map, List.zip_map']
    exact Memory.read_writeCells_range s.mem loc _ (Nat.lt_succ_of_le hk) fun j hj => hlast j (Nat.le_of_lt_succ hj)
  · have hkeeps :=
      (KeepsAllBut.writeAll s ((List.range (x.toNat + 1)).map loc) (s.regsUpTo x)).thenIncIndex s.i.toNat x
    rwa [List.map_map] at hkeeps

/-- Loading a list of up to sixteen bytes puts each in the register of its number (R215). -/
theorem State.setRegsFrom_zero_reg (s : State) {bs : List Byte} (hbs : bs.length ≤ 16) {k : Nat} (hk : k < bs.length) :
    (s.setRegsFrom 0 bs).reg (BitVec.ofNat 4 k) = bs[k] := by
  have hnum : (BitVec.ofNat 4 k).toNat = k := Nat.mod_eq_of_lt (by omega)
  rw [State.reg_setRegsFrom s 0 bs (by omega), dif_pos (by omega)]
  simp only [hnum, Nat.sub_zero]

/-- Settles O37: the bytes at the locations of the range go to V0 to VX, then I moves. -/
theorem loadRegistersReadsMemory : Obligations.LoadRegistersReadsMemory := by
  intro x s
  refine ⟨decode_encode (i := .loadRegisters x) rfl, fun h => ?_,
    fun ho hb => orRaise_resolveRange_bad ho (Nat.succ_pos _) (by omega)⟩
  obtain ⟨loc, hrange, hres⟩ := h.locations
  have hlen : (s.readAll ((List.range (x.toNat + 1)).map loc)).length = x.toNat + 1 := by
    rw [State.length_readAll, List.length_map, List.length_range]
  refine ⟨loc, _, fun k hk => hres k (Nat.lt_succ_of_le hk), exec_loadRegisters_ok hrange, fun k hk => ?_, ?_, ?_⟩
  · rw [incIndex_reg, State.setRegsFrom_zero_reg s (by have := x.isLt; omega) (by omega)]
    simp [State.readAll]
  · rw [incIndex_i, State.setRegsFrom_quirks, State.setRegsFrom_i]
  · have hkeeps :=
      (KeepsAllBut.setRegsFrom s 0 (s.readAll ((List.range (x.toNat + 1)).map loc))).thenIncIndex s.i.toNat x
    rwa [hlen, ← List.range_eq_range'] at hkeeps

end Sys2Proof.Machine

/-! Display instructions (43_display R240-R244): a draw is the exclusive or of the screen with a set of bits, one pixel,
then one row, then all rows; a pixel belongs to the row and the bit at its wrapped distance from where the sprite
begins. -/
namespace Sys2Proof.Machine

/-- Settles O38: the cleared screen has no pixel on, and the write is to the screen alone. -/
theorem clearScreenTurnsPixelsOff : Obligations.ClearScreenTurnsPixelsOff := fun _ =>
  ⟨decode_encode (i := .clearScreen) rfl, _, rfl, FrameBuffer.pixel_clear, .of_fields⟩

/-! ### Drawing a set of bits (R242, R244) -/

/-- `after` is `before` with `bits` drawn: each pixel is exclusive-ored with its bit, and a collision is added where a bit
of 1 met a lit pixel. -/
structure Draws (bits : Fin 64 → Fin 32 → Bool) (before after : FrameBuffer × Bool) : Prop where
  pixel : ∀ c r, FrameBuffer.pixel after.1 c r = (FrameBuffer.pixel before.1 c r ^^ bits c r)
  collides : after.2 = true ↔ before.2 = true ∨ ∃ c r, FrameBuffer.pixel before.1 c r = true ∧ bits c r = true

theorem Draws.of_no_bits {bits : Fin 64 → Fin 32 → Bool} (h : ∀ c r, bits c r = false) (d : FrameBuffer × Bool) :
    Draws bits d d where
  pixel := by simp [h]
  collides := by simp [h]

/-- Two sets of bits that do not meet, drawn one after the other, are their union drawn at once. -/
theorem Draws.trans {f g h : Fin 64 → Fin 32 → Bool} {d d' d'' : FrameBuffer × Bool} (hf : Draws f d d')
    (hg : Draws g d' d'') (hdisjoint : ∀ c r, g c r = true → f c r = false)
    (hunion : ∀ c r, h c r = (f c r || g c r)) : Draws h d d'' := by
  have hkept : ∀ c r, g c r = true → FrameBuffer.pixel d'.1 c r = FrameBuffer.pixel d.1 c r := fun c r hgb => by
    rw [hf.pixel, hdisjoint c r hgb, Bool.xor_false]
  constructor
  case pixel =>
    intro c r
    rw [hg.pixel, hunion]
    cases hgb : g c r with
    | false => rw [hf.pixel, Bool.xor_false, Bool.or_false]
    | true => rw [hkept c r hgb, hdisjoint c r hgb, Bool.false_or]
  case collides =>
    have hmet : ∀ c r, (FrameBuffer.pixel d'.1 c r = true ∧ g c r = true) ↔
        (FrameBuffer.pixel d.1 c r = true ∧ g c r = true) := fun c r => and_congr_left fun hgb => by rw [hkept c r hgb]
    simp only [hg.collides, hf.collides, hmet, hunion, Bool.or_eq_true, and_or_left, exists_or, or_assoc]

theorem drawPixel_draws (d : FrameBuffer × Bool) (tx : Fin 64) (ty : Fin 32) (bit : Bool) :
    Draws (fun c r => decide (c = tx ∧ r = ty) && bit) d (drawPixel d tx ty bit) where
  pixel c r := by
    rw [drawPixel, FrameBuffer.pixel_setPixel]
    by_cases h : c = tx ∧ r = ty
    · obtain ⟨rfl, rfl⟩ := h
      simp
    · simp [h]
  collides := by
    simp only [drawPixel, Bool.or_eq_true, Bool.and_eq_true, decide_eq_true_eq]
    refine or_congr_right ⟨fun ⟨hlit, hbit⟩ => ⟨tx, ty, hlit, ⟨rfl, rfl⟩, hbit⟩, ?_⟩
    rintro ⟨_, _, hlit, ⟨rfl, rfl⟩, hbit⟩
    exact ⟨hlit, hbit⟩

/-! ### The distance on an axis that wraps (R243) -/

/-- How far `k` lies past `start` on an axis of `n` pixels that wraps. -/
def wrapDistance (n start k : Nat) : Nat := (k + n - start % n) % n

/-- The pixel `b` past `start` is the one whose distance is `b`. -/
theorem eq_ofNat_add_iff {n : Nat} [NeZero n] (start : Nat) {b : Nat} (hb : b < n) (k : Fin n) :
    k = Fin.ofNat n (start + b) ↔ wrapDistance n start k = b := by
  have hk := k.isLt
  have hs : start % n < n := Nat.mod_lt _ (by omega)
  have hdist : wrapDistance n start k = if start % n ≤ k then k - start % n else k + n - start % n := by
    unfold wrapDistance
    split
    · rw [Nat.sub_add_comm ‹_›, Nat.add_mod_right, Nat.mod_eq_of_lt (by omega)]
    · exact Nat.mod_eq_of_lt (by omega)
  rw [Fin.ext_iff, Fin.val_ofNat, Nat.add_mod_eq_ite, Nat.mod_eq_of_lt hb, hdist]
  split <;> split <;> omega

theorem wrapDistance_mod (n start k : Nat) : wrapDistance n (start % n) k = wrapDistance n start k := by
  rw [wrapDistance, Nat.mod_mod, wrapDistance]

/-- One row further down every pixel is one row nearer, and the row the sprite left is 31 rows away. -/
theorem wrapDistance_succ (start : Nat) (k : Fin 32) :
    wrapDistance 32 (start + 1) k = if wrapDistance 32 start k = 0 then 31 else wrapDistance 32 start k - 1 := by
  have hk := k.isLt
  unfold wrapDistance
  split <;> omega

/-! ### Rows of bits (R242, R243) -/

/-- The first `m` bits of a row drawn from column `x` on, leftmost first, on screen row `y`. -/
def rowBits (x y : Nat) (row : Byte) (m : Nat) (c : Fin 64) (r : Fin 32) : Bool :=
  decide (wrapDistance 32 y r = 0) && decide (wrapDistance 64 x c < m) && row.getLsbD (7 - wrapDistance 64 x c)

/-- The bits of rows drawn from column `x` and row `y` on. -/
def spriteBits (x y : Nat) (rows : List Byte) (c : Fin 64) (r : Fin 32) : Bool :=
  decide (wrapDistance 64 x c < 8) && (rows.getD (wrapDistance 32 y r) 0#8).getLsbD (7 - wrapDistance 64 x c)

theorem drawColumns_draws (x y : Nat) (row : Byte) (d : FrameBuffer × Bool) {m : Nat} (hm : m ≤ 64) :
    Draws (rowBits x y row m) d ((List.range m).foldl
      (fun acc b => drawPixel acc (Fin.ofNat 64 (x + b)) (Fin.ofNat 32 y) (row.getLsbD (7 - b))) d) := by
  induction m with
  | zero => exact .of_no_bits (by simp [rowBits]) d
  | succ m ih =>
    have hplace : ∀ (c : Fin 64) (r : Fin 32), c = Fin.ofNat 64 (x + m) ∧ r = Fin.ofNat 32 y ↔
        wrapDistance 64 x c = m ∧ wrapDistance 32 y r = 0 := fun c r =>
      and_congr (eq_ofNat_add_iff x hm c) (eq_ofNat_add_iff y (b := 0) (by decide) r)
    rw [List.range_succ, List.foldl_append]
    refine (ih (by omega)).trans (drawPixel_draws _ _ _ _) (fun c r h => ?_) fun c r => ?_
    · simp only [hplace, Bool.and_eq_true, decide_eq_true_eq] at h
      simp [rowBits, h]
    · simp only [hplace, rowBits]
      rcases Nat.lt_trichotomy (wrapDistance 64 x c) m with h | h | h
      · simp [h, h.ne, Nat.lt_succ_of_lt h]
      · simp [h]
      · simp [h.not_gt, h.ne', Nat.not_lt.2 h]

theorem drawRow_draws (x y : Nat) (row : Byte) (d : FrameBuffer × Bool) :
    Draws (rowBits x y row 8) d (drawRow x (Fin.ofNat 32 y) row d) := drawColumns_draws x y row d (by decide)

/-- The rows from the second on leave the screen row of the first alone, where they are too few to come round to it. -/
theorem spriteBits_tail_of_first {x y : Nat} {rows : List Byte} (h : rows.length < 32) {r : Fin 32}
    (hr : wrapDistance 32 y r = 0) (c : Fin 64) : spriteBits x (y + 1) rows c r = false := by
  rw [spriteBits, wrapDistance_succ, if_pos hr, List.getD_eq_default _ _ (by omega)]
  simp

/-- The bits of a sprite are those of its first row and those of the others, one screen row further down. -/
theorem spriteBits_cons (x y : Nat) (row : Byte) {rows : List Byte} (h : rows.length < 32) (c : Fin 64) (r : Fin 32) :
    spriteBits x y (row :: rows) c r = (rowBits x y row 8 c r || spriteBits x (y + 1) rows c r) := by
  by_cases hr : wrapDistance 32 y r = 0
  · rw [spriteBits_tail_of_first h hr]
    simp [spriteBits, rowBits, hr]
  · obtain ⟨k, hk⟩ := Nat.exists_eq_succ_of_ne_zero hr
    simp [spriteBits, rowBits, wrapDistance_succ, hk]

/-- No more rows than the screen has, so none meets another. -/
theorem drawRows_draws (x y : Nat) (rows : List Byte) (d : FrameBuffer × Bool) (h : rows.length ≤ 32) :
    Draws (spriteBits x y rows) d (drawRows x y rows d) := by
  induction rows generalizing y d with
  | nil => exact .of_no_bits (by simp [spriteBits]) d
  | cons row rows ih =>
    have hlt : rows.length < 32 := h
    refine (drawRow_draws x y row d).trans (ih (y + 1) _ hlt.le) (fun c r hb => ?_) (spriteBits_cons x y row hlt)
    have hr : wrapDistance 32 y r ≠ 0 := fun hr => by simp [spriteBits_tail_of_first hlt hr] at hb
    simp [rowBits, hr]

theorem displayDraw_draws (fb : FrameBuffer) (x y : Nat) {rows : List Byte} (h : rows.length ≤ 32) :
    Draws (spriteBits x y rows) (fb, false) (displayDraw fb x y rows) := drawRows_draws x y rows _ h

/-! ### DXYN (R241-R244) -/

/-- On a row of the sprite, the bits of the byte at the row's location. -/
theorem spriteBit_of_lt {s : State} {x y n : Nibble} {r : Fin 32} {a : Nat}
    (hrow : wrapDistance 32 (s.reg y).toNat r < n.toNat)
    (hres : resolve s.params.memOob (s.i.toNat + wrapDistance 32 (s.reg y).toNat r) = .ok a) (c : Fin 64) :
    spriteBit s x y n c r = (decide (wrapDistance 64 (s.reg x).toNat c < 8) &&
      (Memory.read s.mem a).getLsbD (7 - wrapDistance 64 (s.reg x).toNat c)) := by
  unfold wrapDistance at hrow hres
  simp only [spriteBit, hres, hrow, decide_true, Bool.and_true]
  rfl

/-- On a screen row outside the sprite's rows it has no bits. -/
theorem spriteBit_of_ge {s : State} {x y n : Nibble} {r : Fin 32}
    (hrow : ¬ wrapDistance 32 (s.reg y).toNat r < n.toNat) (c : Fin 64) : spriteBit s x y n c r = false := by
  unfold wrapDistance at hrow
  simp only [spriteBit, hrow, decide_false, Bool.and_false, Bool.false_and]

/-- The rows read from the locations of the range at I are the sprite. -/
theorem spriteBits_readAll {s : State} (x y : Nibble) {n : Nibble} {loc : Nat → Nat}
    (hres : ∀ k < n.toNat, resolve s.params.memOob (s.i.toNat + k) = .ok (loc k)) :
    spriteBits ((s.reg x).toNat % 64) ((s.reg y).toNat % 32) (s.readAll ((List.range n.toNat).map loc)) =
      spriteBit s x y n := by
  funext c r
  by_cases hrow : wrapDistance 32 (s.reg y).toNat r < n.toNat
  · rw [spriteBit_of_lt hrow (hres _ hrow)]
    simp [spriteBits, wrapDistance_mod, State.readAll, hrow]
  · rw [spriteBit_of_ge hrow]
    simp [spriteBits, wrapDistance_mod, State.readAll, hrow]

/-- A draw of a reachable sprite draws its bits on the screen, and the collision goes to VF. -/
theorem exec_draw_draws {s : State} (x y : Nibble) {n : Nibble} (h : Reachable s s.i.toNat n.toNat) :
    ∃ d : FrameBuffer × Bool, exec (.draw x y n) s = .next ({ s with fb := d.1 }.setVF (flagByte d.2)) ∧
      Draws (spriteBit s x y n) (s.fb, false) d := by
  obtain ⟨loc, hrange, hres⟩ := h.locations
  have hlen : (s.readAll ((List.range n.toNat).map loc)).length ≤ 32 := by
    rw [State.length_readAll, List.length_map, List.length_range]
    exact n.isLt.le.trans (by decide)
  have hdraws := displayDraw_draws s.fb ((s.reg x).toNat % 64) ((s.reg y).toNat % 32) hlen
  rw [spriteBits_readAll x y hres] at hdraws
  exact ⟨_, by rw [exec, execDraw, hrange, orRaise_ok], hdraws⟩

/-- What DXYN does with a reachable sprite: the pixels, the collision in VF and the frame. -/
theorem exec_draw_ok {s : State} (x y : Nibble) {n : Nibble} (h : Reachable s s.i.toNat n.toNat) :
    ∃ (t : State) (collided : Bool), exec (.draw x y n) s = .next t ∧
      (∀ c r, FrameBuffer.pixel t.fb c r = (FrameBuffer.pixel s.fb c r ^^ spriteBit s x y n c r)) ∧
      (collided = true ↔ ∃ c r, FrameBuffer.pixel s.fb c r = true ∧ spriteBit s x y n c r = true) ∧
      t.reg 0xF#4 = flagByte collided ∧ KeepsAllBut [.screen, .reg 0xF#4] s t := by
  obtain ⟨d, hexec, hdraws⟩ := exec_draw_draws x y h
  exact ⟨_, d.2, hexec, hdraws.pixel, hdraws.collides.trans (by simp), State.reg_setReg_self _ _ _,
    KeepsAllBut.trans (.of_fields : KeepsAllBut [.screen] s _) (.setReg _ 0xF#4 _)⟩

/-- Settles O39: with a reachable sprite the drawn bits and the collision's flag, with another the fault of its range. -/
theorem drawXorsSprite : Obligations.DrawXorsSprite := by
  intro x y n s
  refine ⟨decode_encode (i := .draw x y n) rfl, fun h => ?_, fun ho hn hb => orRaise_resolveRange_bad ho hn (by omega)⟩
  obtain ⟨t, collided, hexec, hpixel, hcollided, hflag, hkeeps⟩ := exec_draw_ok x y h
  refine ⟨t, hexec, hpixel, fun hmet => ?_, fun hclear => ?_, hkeeps⟩
  · rw [hflag, hcollided.2 hmet, flagByte, if_pos rfl]
  · have hnone : ¬ collided = true := fun hc => by
      obtain ⟨c, r, hlit, hbit⟩ := hcollided.1 hc
      exact absurd hbit (by simp [hclear c r hlit])
    rw [hflag, flagByte, if_neg hnone]

/-- The sprite depends on where it is drawn, where its rows are, and memory. -/
theorem spriteBit_congr {s t : State} {x y : Nibble} (hx : t.reg x = s.reg x) (hy : t.reg y = s.reg y) (hi : t.i = s.i)
    (hmem : ∀ a, Memory.read t.mem a = Memory.read s.mem a) (hparams : t.params = s.params) (n : Nibble) :
    spriteBit t x y n = spriteBit s x y n := by
  funext c r
  simp only [spriteBit, hx, hy, hi, hmem, hparams]

theorem flagByte_eq_one_iff {b : Bool} : flagByte b = 1#8 ↔ b = true := by cases b <;> decide

/-- Settles O40: neither draw moves the sprite, and exclusive-oring the same bit twice gives the pixel back. -/
theorem drawTwiceErases : Obligations.DrawTwiceErases := by
  intro x y n s hx hy h
  obtain ⟨t, _, hexec, hpixel, -, -, hkeeps⟩ := exec_draw_ok x y h
  have hi : t.i = s.i := hkeeps.places .index (by simp)
  have hsprite : spriteBit t x y n = spriteBit s x y n :=
    spriteBit_congr (hkeeps.places (.reg x) (by simp [hx])) (hkeeps.places (.reg y) (by simp [hy])) hi
      (fun a => hkeeps.places (.byte a) (by simp)) hkeeps.host.params n
  have h' : Reachable t t.i.toNat n.toNat := by rwa [Reachable, hi, hkeeps.host.params]
  obtain ⟨u, collided, hexec', hpixel', hcollided, hflag, -⟩ := exec_draw_ok x y h'
  rw [hsprite] at hpixel' hcollided
  have hlit : ∀ c r, (FrameBuffer.pixel t.fb c r = true ∧ spriteBit s x y n c r = true) ↔
      (FrameBuffer.pixel s.fb c r = false ∧ FrameBuffer.pixel t.fb c r = true) := fun c r => by
    rw [hpixel]
    cases FrameBuffer.pixel s.fb c r <;> simp
  refine ⟨t, u, hexec, hexec', fun c r => by rw [hpixel', hpixel, Bool.xor_assoc, Bool.xor_self, Bool.xor_false], ?_⟩
  rw [hflag, flagByte_eq_one_iff, hcollided]
  simp only [hlit]

end Sys2Proof.Machine

/-! Keypad and timer instructions (44_input_timer R260-R266): a key query answers from the keys or from the oracle, and the
two skips pass its answer to `skipIf`; the timers move by one write each; the wait for a key rewinds or reads the latch. -/
namespace Sys2Proof.Machine

open Sys2Proof.Config

/-! ### The key query (10_state R52; R261) -/

/-- A code that names a key asks the key and counts nothing. -/
theorem State.keyDown_of_key {s : State} {k : Byte} {down : Bool} (h : s.keys[k.toNat]? = some down) :
    s.keyDown k = (down, s) := by
  obtain ⟨hk, hdown⟩ := Vector.getElem?_eq_some_iff.1 h
  rw [State.keyDown, dif_pos hk, hdown]

/-- A code above the keys takes the oracle's next answer. -/
theorem State.keyDown_of_ge {s : State} {k : Byte} (h : 16 ≤ k.toNat) :
    s.keyDown k = (keyOracle s.keyCount, { s with keyCount := s.keyCount + 1 }) :=
  dif_neg h.not_gt

/-! ### Skips on a key (R260, R262) -/

theorem exec_skipIfKeyPressed_of_keyDown {x : Nibble} {s u : State} {down : Bool}
    (h : s.keyDown (s.reg x) = (down, u)) : exec (.skipIfKeyPressed x) s = skipIf down u := by
  rw [exec, execSkipIfKeyPressed, h]

theorem exec_skipIfKeyNotPressed_of_keyDown {x : Nibble} {s u : State} {down : Bool}
    (h : s.keyDown (s.reg x) = (down, u)) : exec (.skipIfKeyNotPressed x) s = skipIf (!down) u := by
  rw [exec, execSkipIfKeyNotPressed, h]

/-- The two skips on one answer `down` of the key query, which leaves `u`: they move PC in opposite cases. -/
theorem keySkips_of_keyDown {x : Nibble} {s u : State} {down : Bool} (h : s.keyDown (s.reg x) = (down, u)) :
    (∃ t, exec (.skipIfKeyPressed x) s = .next t ∧
      t.pc.toNat = (if down then (u.pc.toNat + 2) % 65536 else u.pc.toNat) ∧ KeepsAllBut [.pc] u t) ∧
    ∃ t, exec (.skipIfKeyNotPressed x) s = .next t ∧
      t.pc.toNat = (if down then u.pc.toNat else (u.pc.toNat + 2) % 65536) ∧ KeepsAllBut [.pc] u t := by
  rw [exec_skipIfKeyPressed_of_keyDown h, exec_skipIfKeyNotPressed_of_keyDown h]
  have hup : (!down) = true ↔ ¬down = true := by rw [Bool.not_eq_true', Bool.not_eq_true]
  exact ⟨skipIf_of_iff Iff.rfl u, by simpa only [ite_not] using skipIf_of_iff hup u⟩

/-- A write to PC after the oracle was asked: the query has moved its counter, and nothing else has changed. -/
theorem KeepsAllBut.after_oracle {s t : State} (h : KeepsAllBut [.pc] { s with keyCount := s.keyCount + 1 } t) :
    t.keyCount = s.keyCount + 1 ∧ KeepsAllBut [.pc, .keyCount] s t := by
  have hquery : KeepsAllBut [.keyCount] s { s with keyCount := s.keyCount + 1 } := .of_fields
  exact ⟨h.places .keyCount (by simp), (hquery.trans h).mono (by simp)⟩

/-- Settles O41: the two answers of the key query, each given to both skips. -/
theorem keySkipsFollowKeys : Obligations.KeySkipsFollowKeys := by
  intro x s
  refine ⟨decode_encode (i := .skipIfKeyPressed x) rfl, decode_encode (i := .skipIfKeyNotPressed x) rfl,
    fun _ hkey => keySkips_of_keyDown (State.keyDown_of_key hkey), fun hge => ?_⟩
  obtain ⟨⟨t, hpressed, hpc, hkeeps⟩, u, hnotPressed, hpc', hkeeps'⟩ := keySkips_of_keyDown (State.keyDown_of_ge hge)
  exact ⟨⟨t, hpressed, hpc, hkeeps.after_oracle⟩, u, hnotPressed, hpc', hkeeps'.after_oracle⟩

/-! ### Timers (R263-R265) -/

theorem KeepsAllBut.setDelay (s : State) (b : Byte) : KeepsAllBut [.dt] s (s.setDelay b) := .of_fields

theorem KeepsAllBut.setSound (s : State) (b : Byte) : KeepsAllBut [.st] s (s.setSound b) := .of_fields

/-- Settles O42: each is one write, to V[X], DT or ST. -/
theorem timerRegisterTransfers : Obligations.TimerRegisterTransfers := fun x s =>
  ⟨⟨decode_encode (i := .readDelayTimer x) rfl, _, rfl, s.reg_setReg_self x s.dt, .setReg s x s.dt⟩,
    ⟨decode_encode (i := .writeDelayTimer x) rfl, _, rfl, s.setDelay_dt (s.reg x), .setDelay s (s.reg x)⟩,
    ⟨decode_encode (i := .writeSoundTimer x) rfl, _, rfl, s.setSound_st (s.reg x), .setSound s (s.reg x)⟩⟩

/-! ### The wait for a key (R266; 10_state R53) -/

/-- With no fresh key the instruction will be fetched again. -/
theorem exec_getKey_none {x : Nibble} {s : State} (h : s.freshKey = none) : exec (.getKey x) s = .next s.rewind := by
  rw [exec, execGetKey, h]

/-- With a fresh key the latch is only read. -/
theorem exec_getKey_some {x k : Nibble} {s : State} (h : s.freshKey = some k) :
    exec (.getKey x) s = .next (s.setReg x (k.zeroExtend 8)) := by
  rw [exec, execGetKey, h]

theorem KeepsAllBut.rewind (s : State) : KeepsAllBut [.pc] s s.rewind := .of_fields

/-- The rewind is undone by fetch's advance, modulo 2^16 (R266; 30_encoding R101). -/
theorem State.rewind_pc_toNat_add_two (s : State) : (s.rewind.pc.toNat + 2) % 65536 = s.pc.toNat := by
  have hcancel : s.rewind.pc + 2#16 = s.pc := BitVec.sub_add_cancel s.pc 2#16
  exact congrArg BitVec.toNat hcancel

/-- A key code keeps its value in a byte. -/
theorem keyCode_toNat (k : Nibble) : (k.zeroExtend 8).toNat = k.toNat := by
  rw [BitVec.zeroExtend, BitVec.toNat_setWidth_of_le (by decide)]

/-- Settles O43: the two states of the latch. -/
theorem getKeyRewindsOrReads : Obligations.GetKeyRewindsOrReads := fun x s =>
  ⟨decode_encode (i := .getKey x) rfl,
    fun h => ⟨_, exec_getKey_none h, s.rewind_pc_toNat_add_two, .rewind s⟩,
    fun k h => ⟨_, exec_getKey_some h, by rw [State.reg_setReg_self, keyCode_toNat], .setReg s x _⟩⟩

end Sys2Proof.Machine


/-! The fallback for unrecognized words (45_default_op). -/
namespace Sys2Proof.Machine

theorem KeepsAllBut.diag (s : State) (m : DiagRecord) : KeepsAllBut [.log] s (s.diag m) := .of_fields

/-- Fetch has moved PC past the instruction word, modulo 2^16 (R101). -/
theorem State.insnAddr_of_pc_eq {s : State} {a : Word} (h : s.pc = a + 2#16) : s.insnAddr = a := by
  rw [State.insnAddr, h, BitVec.add_sub_cancel]

/-- With PC at `a + 2` the diagnostic names `a` (R290). -/
theorem exec_defaultOp_of_pc_eq {s : State} {a : Word} (w : Word) (h : s.pc = a + 2#16) :
    exec (.defaultOp w) s = .next (s.diag (.unimplementedInstruction w a)) := by
  rw [exec, execDefaultOp, State.insnAddr_of_pc_eq h]

/-- Settles O44: the instruction is one write to the log, and its record holds the word's own address. -/
theorem defaultOpOnlyLogs : Obligations.DefaultOpOnlyLogs := fun w s =>
  ⟨decode_of_unrecognized, fun a h =>
    ⟨_, exec_defaultOp_of_pc_eq w h, s.diag_diagLog (.unimplementedInstruction w a), .diag s _⟩⟩

end Sys2Proof.Machine

/-! Ticks and host events of 60_exceptions (R310, R311, R324, R330-R332, R337): the three answers of a tick, the key and frame
events, the jump to itself as a fixed point, and the reference schedule as a script. -/
namespace Sys2Proof.Machine

/-! ### When a tick is admitted (R332) -/

theorem tick_of_idle {s : State} (hrun : s.run = .idle) : tick s = .refused .tickBeforeInit := by
  rw [tick, hrun]

theorem tick_of_fault {s : State} {r : FaultRecord} (hrun : s.run = .running) (hfault : s.fault = some r) :
    tick s = .fault (.stuckAfterFault r) := by
  rw [tick, hrun, hfault]

/-- One cycle answers a next state: a fetch fault is recorded, and every instruction completes (R301; 30_encoding R111). -/
theorem cycle_completes (s : State) : ∃ t, cycle s = .next t :=
  orRaise_completes fun p => everyInstructionCompletes (decode p.1) p.2

/-- Settles O10: the three cases of the admission; an admitted tick is a cycle. -/
theorem tickAdmission : Obligations.TickAdmission := fun s =>
  ⟨tick_of_idle, fun _ => tick_of_fault, fun hrun hfault => tick_admitted hrun hfault ▸ cycle_completes s⟩

/-! ### The frame and the keys (R310, R311, R324) -/

/-- Settles O45: the step is the frame event, and each counter falls by one, from 0 to 0. -/
theorem frameCountsDown : Obligations.FrameCountsDown := fun s _ h =>
  ⟨_, step_of_script h, countDown_toNat s.dt, countDown_toNat s.st, rfl⟩

/-- A key's entry after one key was set. -/
theorem getElem_set_key (keys : Vector Bool 16) (k : Nibble) (down : Bool) (j : Fin 16) :
    (keys.set k.toNat down k.isLt)[j] = if j.val = k.toNat then down else keys[j] := by
  simp only [Fin.getElem_fin, Vector.getElem_set, eq_comm]

/-- Settles O46: each event sets its key's entry, and the key-up writes the latch. -/
theorem keyEventsSetKeysAndLatch : Obligations.KeyEventsSetKeysAndLatch := fun s k =>
  ⟨⟨_, rfl, getElem_set_key s.keys k true, rfl⟩, ⟨_, rfl, getElem_set_key s.keys k false, rfl⟩⟩

/-! ### A jump to its own address (R337; 40_control_flow R141) -/

/-- At a jump to itself the tick is admitted, PC is an address of memory, and the fetched word is that jump (R337). -/
theorem State.atSelfJump_cases {s : State} (h : s.atSelfJump = true) :
    s.run = .running ∧ s.fault = none ∧ s.pc.toNat ≤ 0xFFF ∧
      s.fetch = .ok (encode (.jump (s.pc.truncate 12)), s.advance) := by
  rw [State.atSelfJump, State.admitted] at h
  cases hfetch : s.fetch with
  | error r => simp [hfetch] at h
  | ok p =>
    obtain ⟨w, u⟩ := p
    obtain ⟨-, -, -, -, -, rfl⟩ := State.fetch_ok hfetch
    simp only [hfetch, Bool.and_eq_true, beq_iff_eq, decide_eq_true_eq] at h
    obtain ⟨⟨⟨hrun, hfault⟩, hpc⟩, rfl⟩ := h
    exact ⟨hrun, hfault, hpc, rfl⟩

/-- A jump to the instruction's own address undoes fetch's advance (40_control_flow R141; 30_encoding R101). -/
theorem exec_jump_self {s : State} (hpc : s.pc.toNat ≤ 0xFFF) :
    exec (.jump (s.pc.truncate 12)) s.advance = .next s := by
  have htarget : BitVec.ofNat 16 (addrOperand (s.pc.truncate 12)) = s.pc := by
    rw [addrOperand]
    bv_omega
  exact congrArg (fun pc => Host.Outcome.next { s with pc := pc }) htarget

/-- A tick at a jump to itself leaves the state as it is (R337). -/
theorem tick_of_atSelfJump {s : State} (h : s.atSelfJump = true) : tick s = .next s := by
  obtain ⟨hrun, hfault, hpc, hfetch⟩ := State.atSelfJump_cases h
  rw [tick_admitted hrun hfault, cycle, hfetch, orRaise_ok, decode_encode rfl, exec_jump_self hpc]

/-- Settles O12: the tick is the jump to itself, and on an empty script the step is that tick. -/
theorem selfJumpIsFixedPoint : Obligations.SelfJumpIsFixedPoint := by
  intro s h
  obtain ⟨-, hfault, -, -⟩ := State.atSelfJump_cases h
  have htick := tick_of_atSelfJump h
  exact ⟨hfault, htick, fun hscript => (step_of_script_nil hscript).trans htick⟩

end Sys2Proof.Machine

/-! The reference schedule as a script (60_exceptions R331; log entry 9): no tick reads the events to come, so the ticks of a
script are `tickBatch`. -/
namespace Sys2Proof.Machine

open Sys2Proof.Config

/-! ### A run from a state with other events to come -/

/-- `s` with other events to come. -/
def State.withScript (s : State) (es : List HostEvent) : State := { s with script := es }

/-- An answer whose next state, if there is one, has other events to come. -/
def answerWithScript (es : List HostEvent) : Result → Result
  | .next t => .next (t.withScript es)
  | .fault r => .fault r
  | .refused r => .refused r

section WithScript

variable {s : State} {es : List HostEvent}

theorem State.withScript_ite (c : Prop) [Decidable c] (u u' : State) :
    (if c then u else u').withScript es = if c then u.withScript es else u'.withScript es :=
  apply_ite (fun r : State => r.withScript es) c u u'

/-- An operation that may raise, by the continuation alone: the value or the fault is the same for both scripts. -/
theorem orRaise_withScript {α : Type} {e : Except FaultRecord α} {k k' : α → Result}
    (hk : ∀ a, k' a = answerWithScript es (k a)) :
    orRaise (s.withScript es) e k' = answerWithScript es (orRaise s e k) := by
  cases e with
  | error r => rfl
  | ok a => exact hk a

theorem skipIf_withScript (c : Bool) (s : State) :
    skipIf c (s.withScript es) = answerWithScript es (skipIf c s) :=
  congrArg Host.Outcome.next (State.withScript_ite (c = true) s.advance s).symm

theorem shiftSource_withScript (x y : Nibble) :
    shiftSource (s.withScript es) x y = (shiftSource s x y).withScript es :=
  (State.withScript_ite (s.quirks.shiftVY = true) (s.setReg x (s.reg y)) s).symm

theorem incIndex_withScript (base : Nat) (x : Nibble) :
    incIndex (s.withScript es) base x = (incIndex s base x).withScript es :=
  (State.withScript_ite (s.quirks.incI = true) (s.setI (base + x.toNat + 1)) s).symm

theorem State.setRegsFrom_withScript (k : Nat) (bs : List Byte) :
    (s.withScript es).setRegsFrom k bs = (s.setRegsFrom k bs).withScript es := by
  induction bs generalizing s k with
  | nil => rfl
  | cons b bs ih => exact ih (s := s.setReg (BitVec.ofNat 4 k) b) (k + 1)

theorem State.keyDown_withScript (k : Byte) :
    (s.withScript es).keyDown k = ((s.keyDown k).1, (s.keyDown k).2.withScript es) := by
  by_cases hk : k.toNat < 16
  · have hkey (u : State) : u.keyDown k = (u.keys[k.toNat], u) := dif_pos hk
    rw [hkey, hkey]
    rfl
  · rw [State.keyDown_of_ge (not_lt.1 hk), State.keyDown_of_ge (not_lt.1 hk)]
    rfl

theorem State.fetch_withScript :
    (s.withScript es).fetch = s.fetch.map fun p => (p.1, p.2.withScript es) := by
  unfold State.fetch
  simp only [State.withScript]
  split
  · rfl
  · split <;> rfl

/-- No instruction reads or writes the events to come. -/
theorem exec_withScript (i : Instr) (s : State) (es : List HostEvent) :
    exec i (s.withScript es) = answerWithScript es (exec i s) := by
  cases i with
  | returnFromSubroutine =>
    rcases List.eq_nil_or_concat s.stack with h | ⟨rest, v, h⟩
    · rw [exec_returnFromSubroutine_empty h, exec_returnFromSubroutine_empty (s := s.withScript es) h]
      rfl
    · rw [List.concat_eq_append] at h
      rw [exec_returnFromSubroutine_concat h, exec_returnFromSubroutine_concat (s := s.withScript es) h]
      rfl
  | callSubroutine nnn =>
    by_cases h : s.params.stackLimit = some s.stack.length
    · rw [exec_callSubroutine_full nnn h, exec_callSubroutine_full (s := s.withScript es) nnn h]
      rfl
    · rw [exec_callSubroutine_ok nnn h, exec_callSubroutine_ok (s := s.withScript es) nnn h]
      rfl
  | getKey x =>
    cases h : s.freshKey with
    | none =>
      rw [exec_getKey_none h, exec_getKey_none (s := s.withScript es) h]
      rfl
    | some k =>
      rw [exec_getKey_some h, exec_getKey_some (s := s.withScript es) h]
      rfl
  | addToIndex x =>
    by_cases h : (s.setI (s.i.toNat + (s.reg x).toNat)).i.toNat > 0xFFF
    · rw [exec_addToIndex_of_gt rfl h, exec_addToIndex_of_gt (s := s.withScript es) rfl h]
      rfl
    · rw [exec_addToIndex_of_le rfl h, exec_addToIndex_of_le (s := s.withScript es) rfl h]
      rfl
  | draw | bcdConvert => exact orRaise_withScript fun _ => rfl
  | storeRegisters x =>
    exact orRaise_withScript fun rs =>
      congrArg Host.Outcome.next (incIndex_withScript (s := s.writeAll rs (s.regsUpTo x)) _ x)
  | loadRegisters x =>
    exact orRaise_withScript fun rs => congrArg Host.Outcome.next <|
      (congrArg (incIndex · _ x) (State.setRegsFrom_withScript 0 _)).trans (incIndex_withScript _ x)
  | shiftRight x y =>
    simp only [exec, execShiftRight, shiftSource_withScript]
    rfl
  | shiftLeft x y =>
    simp only [exec, execShiftLeft, shiftSource_withScript]
    rfl
  | skipIfKeyPressed x =>
    exact (exec_skipIfKeyPressed_of_keyDown (State.keyDown_withScript _)).trans (skipIf_withScript _ _)
  | skipIfKeyNotPressed x =>
    exact (exec_skipIfKeyNotPressed_of_keyDown (State.keyDown_withScript _)).trans (skipIf_withScript _ _)
  | skipEqualVal | skipNotEqualVal | skipEqualReg | skipNotEqualReg => exact skipIf_withScript _ s
  | _ => rfl

theorem cycle_withScript (s : State) (es : List HostEvent) :
    cycle (s.withScript es) = answerWithScript es (cycle s) := by
  rw [cycle, cycle, State.fetch_withScript]
  cases s.fetch with
  | error r => rfl
  | ok p => exact exec_withScript (decode p.1) p.2 es

/-- No tick reads or writes the events to come (30_encoding R111; log entry 9). -/
theorem tick_withScript (s : State) (es : List HostEvent) :
    tick (s.withScript es) = answerWithScript es (tick s) := by
  cases hrun : s.run with
  | idle =>
    rw [tick_of_idle hrun, tick_of_idle (s := s.withScript es) hrun]
    rfl
  | running =>
    cases hfault : s.fault with
    | some r =>
      rw [tick_of_fault hrun hfault, tick_of_fault (s := s.withScript es) hrun hfault]
      rfl
    | none =>
      rw [tick_admitted hrun hfault, tick_admitted (s := s.withScript es) hrun hfault, cycle_withScript]

end WithScript

/-! ### One turn of the schedule (R331) -/

/-- A step whose script brings a tick is the tick, with the rest of the events to come. -/
theorem step_tick_withScript (s : State) (rest : List HostEvent) :
    step (s.withScript (.tick :: rest)) = answerWithScript rest (tick s) :=
  tick_withScript s rest

/-- A step whose script brings a frame is the frame, with the rest of the events to come (R310, R311). -/
theorem step_frame_withScript (s : State) (rest : List HostEvent) :
    step (s.withScript (.frame :: rest)) = .next (s.frameEvent.withScript rest) := rfl

/-- A batch of ticks leaves the events to come. -/
theorem tickBatch_script (n : Nat) (s : State) : (tickBatch n s).script = s.script := by
  induction n generalizing s with
  | zero => rfl
  | succ n ih =>
    rw [tickBatch]
    cases htick : tick s with
    | next u => exact (ih u).trans (tick_sameHostSide htick).script
    | fault r => rfl
    | refused r => rfl

/-- A run of a core that answers a state began with a step that answers one, and went on from there. -/
theorem run_succ_cases {M : Host.Core} {k : Nat} {s t : M.State} (h : M.run (k + 1) s = .next t) :
    ∃ u, M.step s = .next u ∧ M.run k u = .next t := by
  unfold Host.Core.run at h
  split at h
  case h_1 u hstep => exact ⟨u, hstep, h⟩
  all_goals cases h

/-- A run of the machine, by its own step. -/
theorem core_run_succ_cases {k : Nat} {s t : State} (h : Sys2Proof.core.run (k + 1) s = .next t) :
    ∃ u, step s = .next u ∧ Sys2Proof.core.run k u = .next t := run_succ_cases h

/-- A run over a script that begins with `n` ticks, where they all answer, goes on from the state of a batch of `n`. -/
theorem run_replicate_tick {n m : Nat} {s t : State} {rest : List HostEvent}
    (h : Sys2Proof.core.run (n + m) (s.withScript (List.replicate n .tick ++ rest)) = .next t) :
    Sys2Proof.core.run m ((tickBatch n s).withScript rest) = .next t := by
  induction n generalizing s with
  | zero => rwa [Nat.zero_add] at h
  | succ n ih =>
    rw [Nat.succ_add] at h
    rw [List.replicate_succ, List.cons_append] at h
    obtain ⟨v, hstep, hrun⟩ := core_run_succ_cases h
    rw [step_tick_withScript] at hstep
    rw [tickBatch]
    cases htick : tick s with
    | next u =>
      rw [htick] at hstep
      cases hstep
      exact ih hrun
    | fault r => rw [htick] at hstep; cases hstep
    | refused r => rw [htick] at hstep; cases hstep

/-- Settles O60: the script's ticks run as a batch, and the frame ends the turn with no events to come, as it began. -/
theorem scriptRunsReferenceQuantum : Obligations.ScriptRunsReferenceQuantum := by
  intro ipf s t hscript h
  obtain ⟨u, hstep, hrun⟩ := core_run_succ_cases (run_replicate_tick (m := 1) (rest := [.frame]) h)
  cases (step_frame_withScript _ _).symm.trans hstep
  cases hrun
  have hempty : (quantum ipf s).script = [] := (tickBatch_script ipf.val s).trans hscript
  exact congrArg (quantum ipf s).withScript hempty.symm

end Sys2Proof.Machine

/-! The launch of 70_reset_and_hazards (R350, R352-R354): what a load of bytes leaves at every address, the one state a launch
can answer, and the facts of that state: its memory by region, the invariant, and reset as its default case. -/
namespace Sys2Proof.Machine

/-! ### What `init()` writes (R350) -/

theorem State.init_reg (s : State) (k : Nibble) : s.init.reg k = 0#8 := Vector.getElem_replicate k.isLt

/-- Settles O48: each element of the tuple by its own law of `init()`. -/
theorem initWritesCoreRegisters : Obligations.InitWritesCoreRegisters := fun s =>
  ⟨s.init_reg, s.init_dt, s.init_st, s.init_stack, s.init_pc, s.init_i, s.init_run, fun _ => rfl, fun _ _ => rfl,
    s.init_keys, s.init_freshKey, s.init_quirks, s.init_fault, s.init_diagLog, s.init_params⟩

/-! ### Reading loaded bytes (R352) -/

/-- A load leaves every address it does not reach as it was. -/
theorem Memory.read_load_outside (m : Memory) {base : Nat} {bs : List Byte} {a : Nat}
    (h : ¬ (base ≤ a ∧ a < base + bs.length)) : Memory.read (Memory.load m base bs) a = Memory.read m a := by
  induction bs generalizing m base with
  | nil => rfl
  | cons b bs ih =>
    rw [List.length_cons] at h
    have hne : a ≠ base := by omega
    calc Memory.read (Memory.load (Memory.write m base b) (base + 1) bs) a
      _ = Memory.read (Memory.write m base b) a := ih _ (by omega)
      _ = Memory.read m a := by rw [Memory.read_write, if_neg hne]

/-- A load puts each byte at its own address. -/
theorem Memory.read_load_getElem (m : Memory) (base : Nat) (bs : List Byte) {k : Nat} (hk : k < bs.length) :
    Memory.read (Memory.load m base bs) (base + k) = bs[k] := by
  induction bs generalizing m base k with
  | nil => cases hk
  | cons b bs ih =>
    cases k with
    | zero =>
      calc Memory.read (Memory.load (Memory.write m base b) (base + 1) bs) base
        _ = Memory.read (Memory.write m base b) base := Memory.read_load_outside _ (by omega)
        _ = b := by rw [Memory.read_write, if_pos rfl]
    | succ k =>
      rw [← Nat.succ_add_eq_add_succ]
      exact ih _ _ (Nat.lt_of_succ_lt_succ hk)

/-! ### The one state a launch can answer (R352, R354) -/

/-- The session's start with the ROM's bytes at 0x200 on, then `init()`. -/
def launchedState (p : LaunchParams) (rom : List Byte) : State :=
  State.init { sessionStart p with mem := Memory.load (sessionStart p).mem progStart rom }

theorem launch_eq (p : LaunchParams) (rom : List Byte) :
    launch p rom = if rom.length ≤ romMax then some (launchedState p rom) else none := by
  unfold launch loadRom
  split
  · rfl
  · rfl

/-- A launch differs from reset in its parameters and its memory alone. -/
theorem launchedState_eq_reset_with (p : LaunchParams) (rom : List Byte) :
    launchedState p rom = { State.reset with
      quirks := p.quirks, params := p.params, mem := (launchedState p rom).mem, fb := p.fb, keys := p.keys } := rfl

theorem launchedState_mem (p : LaunchParams) (rom : List Byte) :
    (launchedState p rom).mem = Memory.load (sessionStart p).mem progStart rom := rfl

theorem sessionStart_mem (p : LaunchParams) :
    (sessionStart p).mem = Memory.load (Memory.ofImage p.rest memSize) fontBase p.font.toList := rfl

/-! ### The memory of a launch, region by region (R353) -/

theorem launchedState_read_rom (p : LaunchParams) {rom : List Byte} {k : Nat} (hk : k < rom.length) :
    Memory.read (launchedState p rom).mem (0x200 + k) = rom[k] :=
  Memory.read_load_getElem _ progStart rom hk

theorem launchedState_read_font (p : LaunchParams) (rom : List Byte) {k : Nat} (hk : k < 80) :
    Memory.read (launchedState p rom).mem (0x050 + k) = p.font[k] := by
  have hlen : k < p.font.toList.length := by rwa [Vector.length_toList]
  have hbelow : ¬ (progStart ≤ 0x050 + k ∧ 0x050 + k < progStart + rom.length) := by unfold progStart; omega
  rw [launchedState_mem, Memory.read_load_outside _ hbelow, sessionStart_mem]
  exact (Memory.read_load_getElem _ fontBase _ hlen).trans (Vector.getElem_toList hlen)

theorem launchedState_read_rest (p : LaunchParams) {rom : List Byte} {a : Nat} (ha : a < 4096)
    (hfont : ¬ (0x050 ≤ a ∧ a < 0x0A0)) (hrom : ¬ (0x200 ≤ a ∧ a < 0x200 + rom.length)) :
    Memory.read (launchedState p rom).mem a = p.rest a := by
  have hnofont : ¬ (fontBase ≤ a ∧ a < fontBase + p.font.toList.length) := by rwa [Vector.length_toList]
  rw [launchedState_mem, Memory.read_load_outside (base := progStart) _ hrom, sessionStart_mem,
    Memory.read_load_outside _ hnofont]
  exact Memory.read_ofImage p.rest memSize a ha

/-- Settles O51: the registers as `init()` leaves them, the memory region by region, the rest as the session's start has
it. -/
theorem launchState : Obligations.LaunchState := fun p rom h =>
  ⟨launchedState p rom, (launch_eq p rom).trans (if_pos h), State.init_reg _, rfl, rfl, rfl, rfl, rfl, rfl, rfl,
    fun _ => launchedState_read_font p rom, fun _ => launchedState_read_rom p,
    fun _ => launchedState_read_rest p, rfl, rfl, rfl, rfl, rfl, rfl⟩

/-! ### The invariant at launch (R353, R354) -/

theorem sessionStart_inv (p : LaunchParams) : (sessionStart p).Inv where
  memory := Memory.wf_load (Memory.wf_ofImage _ _ le_rfl) _ _
    (by rw [Vector.length_toList]; unfold fontBase memSize; omega)
  limit := p.limitOk
  depth := fun n _ => Nat.zero_le n
  idleClean := fun _ => rfl
  recorded := fun _ hr => by cases hr

theorem launchedState_inv (p : LaunchParams) {rom : List Byte} (h : rom.length ≤ romMax) : (launchedState p rom).Inv := by
  have hfits : progStart + rom.length ≤ memSize := Nat.add_le_add_left h progStart
  have hloaded := (sessionStart_inv p).setMem (Memory.wf_load (sessionStart_inv p).memory progStart rom hfits)
  exact hloaded.init rfl

/-- Settles O54: a launch that answers is of a ROM that fits, and `init()` is called in the idle core of the session's
start. -/
theorem launchMeetsInv : Obligations.LaunchMeetsInv := by
  intro p rom t h
  rw [launch_eq] at h
  split at h
  case isTrue hfits => cases h; exact launchedState_inv p hfits
  case isFalse => cases h

/-! ### Reset as the default launch (R353) -/

/-- Outside the font an unlisted address reads as 0. -/
theorem Memory.initial_outside_font {a : Nat} (h : ¬ (0x050 ≤ a ∧ a < 0x0A0)) : Memory.initial a = 0#8 := by
  unfold Memory.initial fontBase
  split
  case isTrue hbase =>
    have hpast : fontDefault.length ≤ a - 0x050 := by rw [show fontDefault.length = 80 from rfl]; omega
    rw [List.getElem?_eq_none hpast, Option.getD_none]
    rfl
  case isFalse => rfl

/-- A canonical memory lists no address past the top. -/
theorem Memory.read_past_top {m : Memory} (h : Memory.wf m = true) {a : Nat} (ha : memSize ≤ a) :
    Memory.read m a = Memory.initial a :=
  Memory.read_absent m a fun c hc => ((((Memory.wf_iff m).1 h).2 c hc).1.trans_le ha).ne

/-- The default launch with no ROM lists no cell: every address reads as unlisted. -/
theorem launchedState_default_mem : (launchedState LaunchParams.default []).mem = [] := by
  have hwf := (launchedState_inv LaunchParams.default (rom := []) (Nat.zero_le romMax)).memory
  refine canonicalMemoryIsUnique _ _ hwf Memory.wf_nil fun a => ?_
  rw [show Memory.read [] a = Memory.initial a from rfl]
  by_cases hfont : 0x050 ≤ a ∧ a < 0x0A0
  · obtain ⟨k, rfl⟩ := Nat.exists_eq_add_of_le hfont.1
    have hk : k < 80 := by omega
    exact (launchedState_read_font _ [] hk).trans (Vector.getElem_ofFn hk)
  · by_cases htop : a < 4096
    · have hrom : ¬ (0x200 ≤ a ∧ a < 0x200 + ([] : List Byte).length) := by rw [List.length_nil]; omega
      exact (launchedState_read_rest _ htop hfont hrom).trans (Memory.initial_outside_font hfont).symm
    · exact Memory.read_past_top hwf (Nat.le_of_not_lt htop)

theorem launchedState_default : launchedState LaunchParams.default [] = State.reset := by
  rw [launchedState_eq_reset_with, launchedState_default_mem]
  rfl

/-- Settles O52: the default launch differs from reset in no field, memory by its canonical form, and a ROM over 3584 bytes
does not fit. -/
theorem resetIsDefaultLaunch : Obligations.ResetIsDefaultLaunch :=
  ⟨(launch_eq _ _).trans (congrArg some launchedState_default),
    fun p rom h => (launch_eq p rom).trans (if_neg h.not_ge)⟩

end Sys2Proof.Machine
